-- ==== Sys2Proof/Word.lean ====
section
/-! DEFINITION. The word types of the LED matrix chain controller (rule R6): a byte and a 32-bit descriptor word,
both bit vectors, because the rules read their bits and software sees them as words. Bit 0 is the least significant. -/

namespace Sys2Proof

/-- A byte, an integer in 0..255 (rule R6). -/
abbrev Byte := BitVec 8

/-- A 32-bit descriptor word (rules R21, R70). -/
abbrev Word32 := BitVec 32

end Sys2Proof
end

