-- ==== Sys2Proof/Config.lean ====
section
/-! DEFINITION. What an implementation or platform fixes (the OPEN parameters P1 to P7 of `92_eei_decisions.md`, rule R5)
and the free values, which nothing in the model constrains. -/

namespace Sys2Proof

/-- A byte-addressed memory: (address, byte) pairs, addresses strictly rising; an address that is not listed
holds no value. -/
abbrev Memory := List Host.Cell

/-- An electrical level of the select line (rule R5, `SEL_ASSERT_LEVEL`). -/
inductive Level where
  | low
  | high
deriving DecidableEq, Repr

/-- What the platform promises of the no-op register code 0x00 at a chip (rule R60, parameter P7, entry U14).
The promise is a hypothesis about the chips, never a property of the block. -/
inductive NoopPromise where
  /-- nothing is promised -/
  | nothing
  /-- `NOOP_HARMLESS`: latching the pair (0x00, 0x00) changes nothing (rule R60) -/
  | zeroData
  /-- the wider hypothesis of entry U14: latching (0x00, d) changes nothing, for every d -/
  | anyData
deriving DecidableEq, Repr

/-- The parameters of the platform (rules R5, R32). They are plain data that no step changes, so that a statement
about every state is a statement about every platform (DESIGN CHOICE, log entry 5). -/
structure Params where
  /-- `N_MAX`, the largest chain length CONFIGURE accepts (P1) -/
  nMax : Nat
  /-- `BUF_MAX`, the capacity of `BUF` in bytes (P2) -/
  bufMax : Nat
  /-- `SEL_ASSERT_LEVEL` (P3) -/
  selAssertLevel : Level
  /-- the part of the glyph table `G` that is given as data: cell `8*c + r` is `G(c)[r]`; the entry of a cell
  that is not listed is `Config.glyph` (P4, log entry 6) -/
  glyph : Memory
  /-- `NOOP_HARMLESS` (P7) -/
  noop : NoopPromise
deriving DecidableEq, Repr

/-- The defaults of rule R5 and of the table of OPEN parameters; no glyph is given (the table has no default) and
nothing is promised of the no-op pair (log entries 5, 6, 8). -/
def Params.default : Params :=
  { nMax := 255, bufMax := 65535, selAssertLevel := .low, glyph := [], noop := .nothing }

/-- The glyph table `G`, where the platform's parameters do not give its bytes: a total function from a byte code and
a row 0..7 to a byte, immutable (rules R5, R41, R178; entry U16). A free value: no body (log entry 6). -/
opaque Config.glyph : Byte → Nat → Byte

/-- What byte `a` of `BUF` reads as at draw number `d`, where the host has not written it since reset: an
indeterminate byte (rule R22). A free value: no body (log entry 4). -/
opaque Config.freeBufByte : Nat → Nat → Byte

/-- The collaborator's answer at draw number `d`, where the schedule gives none: `none` is `ok`, `some e` is `err(e)`
(rule R32, parameter P6). A free value: no body (log entry 2). -/
opaque Config.freeAnswer : Nat → Option Nat

end Sys2Proof
end

