-- ==== Sys2Proof/Syntax.lean ====
section
/-! DEFINITION. The instructions: one constructor per row of `opcode_table.json`. The eight commands are the abstract
type `Cmd` of rule R73, with their sequence operands by value (rule R62). The fourteen wire pairs are the pairs one
chip can latch, one per register code of rule R80. -/

namespace Sys2Proof

/-- The `Register` enumeration, exactly these 14 names (rules R80, R81). -/
inductive Register where
  | noop
  | row0
  | row1
  | row2
  | row3
  | row4
  | row5
  | row6
  | row7
  | decodeMode
  | intensity
  | scanLimit
  | onOff
  | displayTest
deriving DecidableEq, Repr

/-- An 8×8 bit matrix: 8 bytes, byte `i` is row `i` and its bit `j` is column `j` (rules R48, R150). -/
structure Matrix8 where
  r0 : Byte
  r1 : Byte
  r2 : Byte
  r3 : Byte
  r4 : Byte
  r5 : Byte
  r6 : Byte
  r7 : Byte
deriving DecidableEq, Repr

/-- The all-zero matrix. -/
def Matrix8.zero : Matrix8 := ⟨0, 0, 0, 0, 0, 0, 0, 0⟩

/-- One constructor per row of `opcode_table.json`. -/
inductive Instr where
  /-- CONFIGURE(n) (rule R110) -/
  | configure (chainLength : Byte)
  /-- BCAST_CMD(reg, data) (rule R111) -/
  | bcastCmd (reg : Register) (data : Byte)
  /-- CLEAR (rule R112) -/
  | clear
  /-- BCAST_RAW(reg, data) (rule R113) -/
  | bcastRaw (reg : Byte) (data : Byte)
  /-- WRITE_LINE(line, payload) (rule R114) -/
  | writeLine (line : Byte) (payload : List Byte)
  /-- WRITE_DEVICE(dev, reg, data) (rule R115) -/
  | writeDevice (dev : Byte) (reg : Byte) (data : Byte)
  /-- RENDER_TEXT(text, x_pos) (rule R136) -/
  | renderText (text : List Byte) (xPos : Int)
  /-- ROTATE(m) (rule R151) -/
  | rotate (m : Matrix8)
  /-- the pair (0x00, d) at a chip (rules R58, R60) -/
  | pairNoop (data : Byte)
  /-- the pair (0x01, d) at a chip (rule R58) -/
  | pairRow0 (data : Byte)
  /-- the pair (0x02, d) at a chip (rule R58) -/
  | pairRow1 (data : Byte)
  /-- the pair (0x03, d) at a chip (rule R58) -/
  | pairRow2 (data : Byte)
  /-- the pair (0x04, d) at a chip (rule R58) -/
  | pairRow3 (data : Byte)
  /-- the pair (0x05, d) at a chip (rule R58) -/
  | pairRow4 (data : Byte)
  /-- the pair (0x06, d) at a chip (rule R58) -/
  | pairRow5 (data : Byte)
  /-- the pair (0x07, d) at a chip (rule R58) -/
  | pairRow6 (data : Byte)
  /-- the pair (0x08, d) at a chip (rule R58) -/
  | pairRow7 (data : Byte)
  /-- the pair (0x09, d) at a chip (rule R58) -/
  | pairDecodeMode (data : Byte)
  /-- the pair (0x0A, d) at a chip (rule R58) -/
  | pairIntensity (data : Byte)
  /-- the pair (0x0B, d) at a chip (rule R58) -/
  | pairScanLimit (data : Byte)
  /-- the pair (0x0C, d) at a chip (rule R58) -/
  | pairOnOff (data : Byte)
  /-- the pair (0x0F, d) at a chip (rule R58) -/
  | pairDisplayTest (data : Byte)
deriving DecidableEq, Repr

/-- The name of a register in program text (rule R88). -/
def Register.sourceName : Register → String
  | .noop => "Noop"
  | .row0 => "Row0"
  | .row1 => "Row1"
  | .row2 => "Row2"
  | .row3 => "Row3"
  | .row4 => "Row4"
  | .row5 => "Row5"
  | .row6 => "Row6"
  | .row7 => "Row7"
  | .decodeMode => "DecodeMode"
  | .intensity => "Intensity"
  | .scanLimit => "ScanLimit"
  | .onOff => "OnOff"
  | .displayTest => "DisplayTest"

/-- The mnemonic of a command in program text (rules R71, R88); a wire pair has none. -/
def Instr.sourceName : Instr → Option String
  | .configure _ => some "configure"
  | .bcastCmd _ _ => some "broadcast_command"
  | .clear => some "clear"
  | .bcastRaw _ _ => some "broadcast_raw"
  | .writeLine _ _ => some "write_line"
  | .writeDevice _ _ _ => some "write_device"
  | .renderText _ _ => some "render_text_at"
  | .rotate _ => some "rotate_matrix_90cw"
  | .pairNoop _ => none
  | .pairRow0 _ => none
  | .pairRow1 _ => none
  | .pairRow2 _ => none
  | .pairRow3 _ => none
  | .pairRow4 _ => none
  | .pairRow5 _ => none
  | .pairRow6 _ => none
  | .pairRow7 _ => none
  | .pairDecodeMode _ => none
  | .pairIntensity _ => none
  | .pairScanLimit _ => none
  | .pairOnOff _ => none
  | .pairDisplayTest _ => none

end Sys2Proof
end

