-- ==== Sys2Proof/Machine/State.lean ====
section
/-! DEFINITION. The state of the machine as plain data: the block's registers (rules R19 to R30), the state outside it
that decides what its outputs mean (rules R31, R55), and the model's own bookkeeping; its value after reset (rule R33);
and the reasons a step can stop. -/

namespace Sys2Proof.Machine

/-! ### Names and values -/

/-- `MODE` (rule R19); value 3 never occurs. -/
inductive Mode where
  | unconfigured
  | idle
  | busy
deriving DecidableEq, Repr

/-- The two requests of the select port (rules R9, R17). -/
inductive Sel where
  | assert
  | deassert
deriving DecidableEq, Repr

/-- `SEL_STATE`, the block's own record of the select line (rule R29). -/
inductive SelState where
  | deasserted
  | asserted
  | unknown
deriving DecidableEq, Repr

/-- `STATUS`, the code of the last finished command (rules R26, R160); codes 9 to 15 never occur. -/
inductive Status where
  | ok
  | transportError
  | signalError
  | invalidLineIndex
  | invalidPayloadLength
  | invalidDeviceIndex
  | configError
  | illegalCommand
  | cancelled
deriving DecidableEq, Repr

/-- `ERRINFO`: an opaque error value of the serial primitive (`TErr`) or of the select output (`SErr`) (rule R27).
The opaque values are named by numbers, which no rule reads (log entry 14). -/
inductive ErrInfo where
  | transport (e : Nat)
  | signal (e : Nat)
deriving DecidableEq, Repr

/-- How a command ends: its status, with the wrapped value for the two statuses that carry one (rules R160, R166). -/
inductive Completion where
  | ok
  | transportError (e : Nat)
  | signalError (e : Nat)
  | invalidLineIndex
  | invalidPayloadLength
  | invalidDeviceIndex
  | configError
  | illegalCommand
  | cancelled
deriving DecidableEq, Repr

/-- Which byte of a pair (rule R24, `h`): the register byte goes first, then the data byte (rule R45). -/
inductive Half where
  | register
  | data
deriving DecidableEq, Repr

/-- `SEQ`, the sequencer position (rule R24): `f` is the frame, `t` the slot, `h` the byte of the pair. -/
inductive Seq where
  | idle
  | assert (f : Nat)
  | waitAssert (f : Nat)
  | byte (f t : Nat) (h : Half)
  | waitByte (f t : Nat) (h : Half)
  | release (f : Nat)
  | waitRelease (f : Nat)
deriving DecidableEq, Repr

/-- A request the block issues to a collaborator (rules R9, R16, R17). -/
inductive Request where
  | sel (l : Sel)
  | tx (b : Byte)
deriving DecidableEq, Repr

/-- A collaborator's answer (rules R16, R17, R32). -/
inductive Answer where
  | ok
  | err (e : Nat)
deriving DecidableEq, Repr

/-- The trace of rule R10: the requests in the order of issue, the answers the block took to them, and `DONE`. -/
inductive Event where
  | sel (l : Sel)
  | tx (b : Byte)
  | answered (a : Answer)
  | done (c : Completion)
deriving DecidableEq, Repr

/-- What the host can read at the command port (rule R15). -/
inductive PortReg where
  | status
  | errInfo
  | selState
  | mode
  | n
  | res (a : Fin 8)
deriving DecidableEq, Repr

/-- The value of a read at the command port: a code of the width its rule gives, or the opaque `ERRINFO`. -/
inductive PortValue where
  | status (v : BitVec 4)
  | errInfo (v : ErrInfo)
  | selState (v : BitVec 2)
  | mode (v : BitVec 2)
  | n (v : Byte)
  | res (v : Byte)
deriving DecidableEq, Repr

/-- What the host can do at the command port (rule R15). -/
inductive HostAction where
  | writeW0 (v : Word32)
  | writeW1 (v : Word32)
  | writeW2 (v : Word32)
  | writeBuf (a : Nat) (v : Byte)
  | start
  | cancel
  | read (r : PortReg)
  | reset
deriving DecidableEq, Repr

/-- The two collaborators that answer requests, agents of their own (rules R13, R176, R177). -/
inductive Collaborator where
  | xfer
  | seldrv
deriving DecidableEq, Repr

/-- Which agent takes the next step (rule R13): the host with an action, the sequencer, or a collaborator with its
answer. -/
inductive Turn where
  | host (a : HostAction)
  | sequencer
  | answer (c : Collaborator) (a : Answer)
deriving DecidableEq, Repr

/-- The chips, the environment model of rules R55 to R61. -/
structure Chain where
  /-- how many chips are really wired: `none`, as many as `N` says (rules R55, R193 (b)); `some m`, m chips (rule R205) -/
  chips : Option Nat
  /-- `SR`: the bytes known to be in the shift registers, the one shifted in most recently first; a place beyond the
  list is indeterminate -/
  sr : List Byte
  /-- `CREG`: cell `256*p + code` is register `code` of the chip at pos `p`; a cell not listed is indeterminate -/
  creg : Memory
  /-- `OPEN`: a frame is open -/
  frameOpen : Bool
  /-- `CNT`: bytes shifted in since the frame was opened -/
  cnt : Nat
  /-- `BAD`: something in the open frame failed -/
  bad : Bool
  /-- the model's own: the pos of the chip that is latching its pair (log entry 17) -/
  latchPos : Nat
  /-- the model's own: how many `Tx` requests still owed an answer were issued before the open frame was opened and so
  are none of its bytes (rule R203, log entry 30) -/
  stale : Nat
deriving DecidableEq, Repr

/-- The whole state. -/
structure State where
  /-- `MODE` (rule R19) -/
  mode : Mode
  /-- `N`, the chain length (rule R20) -/
  n : Byte
  /-- `W0` (rule R21) -/
  w0 : Word32
  /-- `W1` (rule R21) -/
  w1 : Word32
  /-- `W2` (rule R21) -/
  w2 : Word32
  /-- `BUF`, the operand buffer; a byte not listed has not been written since reset (rule R22) -/
  buf : Memory
  /-- `RES`, the result buffer of ROTATE (rule R23) -/
  res : Matrix8
  /-- `STATUS` (rule R26) -/
  status : Status
  /-- `ERRINFO` (rule R27) -/
  errInfo : ErrInfo
  /-- `SEL_STATE` (rule R29) -/
  selState : SelState
  /-- `CANCEL_PEND` (rule R30) -/
  cancelPend : Bool
  /-- `SEQ` (rules R24, R25) -/
  seq : Seq
  /-- `ERR`, the first-error latch (rule R28) -/
  err : Option Completion
  /-- the request the block has issued and not yet had answered, at most one (rules R13, R16, R33) -/
  outstanding : Option Request
  /-- the level of the select line, as asserted or deasserted; `none` is indeterminate (rules R17, R31) -/
  line : Option Sel
  /-- the chips (rules R31, R55) -/
  chain : Chain
  /-- requests a RESET abandoned, oldest first, whose answers will be discarded (rule R191, log entry 10) -/
  abandoned : List Request
  /-- the command that is running, with its operands by value (rule R62, log entry 12) -/
  inFlight : Option Instr
  /-- the trace so far, oldest event first (rule R10, log entry 13) -/
  trace : List Event
  /-- the value the last read at the command port returned (rule R15, log entry 20) -/
  portData : Option PortValue
  /-- the turns that come next (rule R13, log entry 1) -/
  schedule : List Turn
  /-- the model's own: how many free values have been drawn (log entries 2, 4) -/
  draws : Nat
  /-- the platform's parameters, which no step changes (rules R5, R32, log entry 5) -/
  params : Params
deriving DecidableEq, Repr

/-! ### Reset -/

/-- The chips before the first command: no frame open, every byte and every cell indeterminate (rule R192). -/
def Chain.initial : Chain :=
  { chips := none, sr := [], creg := [], frameOpen := false, cnt := 0, bad := false, latchPos := 0, stale := 0 }

/-- The machine right after reset (rules R33, R190, R192, R193). The values the spec leaves unspecified are log
entry 3 (`N`, `W0`, `W1`, `W2`, `RES`, `ERRINFO`: DESIGN CHOICE zero), 4 (`BUF`), 5 (the parameters' defaults),
9 (the line) and 1, 2, 13, 17, 20, 30 (the model's own fields). -/
def State.reset : State :=
  { mode := .unconfigured
    n := 0
    w0 := 0
    w1 := 0
    w2 := 0
    buf := []
    res := Matrix8.zero
    status := .ok
    errInfo := .transport 0
    selState := .deasserted
    cancelPend := false
    seq := .idle
    err := none
    outstanding := none
    line := some .deassert
    chain := Chain.initial
    abandoned := []
    inFlight := none
    trace := []
    portData := none
    schedule := []
    draws := 0
    params := Params.default }

/-! ### Why a step can stop -/

/-- The faults. -/
inductive Fault where
  /-- Raised when the host writes `BUF[a]` with `a` ≥ `BUF_MAX`: there is no such byte (rules R22, R40). Safe: the
  model stops where the spec gives no effect (log entry 15). -/
  | noSuchBufByte (a : Nat)
  /-- Raised by the sequencer when it stands inside a frame and no frame-sending command runs, or the frame or slot
  is none of that command's. No state a run reaches is so (`State.Inv`). Safe (log entry 24). -/
  | noFrameToSend
deriving DecidableEq, Repr

/-- The refusals. -/
inductive Refusal where
  /-- Raised by `exec` for an instruction that has no meaning yet; safe. No arm of `exec` raises it: every instruction
  has its meaning. -/
  | notModelled (mnemonic : String)
deriving DecidableEq, Repr

/-- What a step answers. -/
abbrev Result := Host.Outcome State Fault Refusal

end Sys2Proof.Machine
end

