-- ==== Sys2Proof/Decode.lean ====
section
/-! DEFINITION. The decoder of the command descriptor (rules R70 to R74, R85) and of the wire pair (rules R75, R80),
total on every value and rejecting by name; then the encoder, from the same tables. -/

namespace Sys2Proof

/-- Why a descriptor or a pair is no instruction (rules R85, R86). -/
inductive Illegal where
  /-- R85 (a): `OPC` ≥ 0x08 -/
  | badOpcode (opc : Byte)
  /-- R85 (b): BCAST_CMD whose `A` is not an enumerated code -/
  | notEnumerated (a : Byte)
  /-- R85 (c): ROTATE whose `LEN` is not 8 -/
  | matrixLength (len : Nat)
  /-- R85 (d): `LEN` > `BUF_MAX` -/
  | lengthOverBuf (len : Nat)
  /-- R86: a register byte the source does not name -/
  | unnamedCode (reg : Byte)
deriving DecidableEq, Repr

/-- A command as the host spells it: three 32-bit words and the bytes `BUF[0], BUF[1], …` it supplies (rule R70). -/
structure Descriptor where
  w0 : Word32
  w1 : Word32
  w2 : Word32
  buf : List Byte
deriving DecidableEq, Repr

/-- An encoded instruction: a descriptor, or a wire pair with its first-transmitted byte in bits [15:8] (rule R75). -/
inductive Encoded where
  | descriptor (d : Descriptor)
  | pair (w : BitVec 16)
deriving DecidableEq, Repr

/-! ### Fields (rule R70) -/

/-- `OPC` = `W0[7:0]` -/
def fieldOpc (w0 : Word32) : Byte := w0.extractLsb' 0 8
/-- `A` = `W0[15:8]` -/
def fieldA (w0 : Word32) : Byte := w0.extractLsb' 8 8
/-- `B` = `W0[23:16]` -/
def fieldB (w0 : Word32) : Byte := w0.extractLsb' 16 8
/-- `C` = `W0[31:24]` -/
def fieldC (w0 : Word32) : Byte := w0.extractLsb' 24 8
/-- `LEN` = `zext_16(W1[15:0])` (rule R83) -/
def fieldLen (w1 : Word32) : Nat := (w1.extractLsb' 0 16).toNat
/-- `x_pos` = `sext_32(W2)` (rules R8, R83) -/
def fieldXPos (w2 : Word32) : Int := w2.toInt

/-- The wire code of a register (rule R80). -/
def Register.code : Register → Byte
  | .noop => 0x00
  | .row0 => 0x01
  | .row1 => 0x02
  | .row2 => 0x03
  | .row3 => 0x04
  | .row4 => 0x05
  | .row5 => 0x06
  | .row6 => 0x07
  | .row7 => 0x08
  | .decodeMode => 0x09
  | .intensity => 0x0A
  | .scanLimit => 0x0B
  | .onOff => 0x0C
  | .displayTest => 0x0F

/-- The register a code names; 0x0D, 0x0E and 0x10..0xFF name none (rules R81, R86). -/
def Register.ofCode (b : Byte) : Option Register :=
  match b.toNat with
  | 0x00 => some .noop
  | 0x01 => some .row0
  | 0x02 => some .row1
  | 0x03 => some .row2
  | 0x04 => some .row3
  | 0x05 => some .row4
  | 0x06 => some .row5
  | 0x07 => some .row6
  | 0x08 => some .row7
  | 0x09 => some .decodeMode
  | 0x0A => some .intensity
  | 0x0B => some .scanLimit
  | 0x0C => some .onOff
  | 0x0F => some .displayTest
  | _ => none

/-- The first `len` bytes a buffer reader gives, `[BUF[0], …, BUF[len-1]]` (rule R42). -/
def bytesOf (buf : Nat → Byte) (len : Nat) : List Byte := (List.range len).map buf

/-- The matrix `[BUF[0], …, BUF[7]]` (rules R42, R151). -/
def matrixOf (row : Nat → Byte) : Matrix8 :=
  ⟨row 0, row 1, row 2, row 3, row 4, row 5, row 6, row 7⟩

/-- The rows of a matrix in order, row 0 first (rule R48). -/
def matrixBytes (m : Matrix8) : List Byte := [m.r0, m.r1, m.r2, m.r3, m.r4, m.r5, m.r6, m.r7]

/-- `decode(W0, W1, W2, BUF)` of rule R73, total on every value of the descriptor; `ILLEGAL` carries its reason
(rule R85). Fields a command does not read are ignored (rule R74). -/
def decodeDescriptor (bufMax : Nat) (buf : Nat → Byte) (w0 w1 w2 : Word32) : Except Illegal Instr :=
  if fieldOpc w0 = 0x00 then .ok (.configure (fieldC w0))
  else if fieldOpc w0 = 0x01 then
    match Register.ofCode (fieldA w0) with
    | some r => .ok (.bcastCmd r (fieldB w0))
    | none => .error (.notEnumerated (fieldA w0))
  else if fieldOpc w0 = 0x02 then .ok .clear
  else if fieldOpc w0 = 0x03 then .ok (.bcastRaw (fieldA w0) (fieldB w0))
  else if fieldOpc w0 = 0x04 then
    if bufMax < fieldLen w1 then .error (.lengthOverBuf (fieldLen w1))
    else .ok (.writeLine (fieldC w0) (bytesOf buf (fieldLen w1)))
  else if fieldOpc w0 = 0x05 then .ok (.writeDevice (fieldC w0) (fieldA w0) (fieldB w0))
  else if fieldOpc w0 = 0x06 then
    if bufMax < fieldLen w1 then .error (.lengthOverBuf (fieldLen w1))
    else .ok (.renderText (bytesOf buf (fieldLen w1)) (fieldXPos w2))
  else if fieldOpc w0 = 0x07 then
    if bufMax < fieldLen w1 then .error (.lengthOverBuf (fieldLen w1))
    else if fieldLen w1 = 8 then .ok (.rotate (matrixOf buf))
    else .error (.matrixLength (fieldLen w1))
  else .error (.badOpcode (fieldOpc w0))

/-- The instruction of a pair that carries register `r` (rows `PAIR.<RegisterName>` of `opcode_table.json`). -/
def pairInstr (r : Register) (data : Byte) : Instr :=
  match r with
  | .noop => .pairNoop data
  | .row0 => .pairRow0 data
  | .row1 => .pairRow1 data
  | .row2 => .pairRow2 data
  | .row3 => .pairRow3 data
  | .row4 => .pairRow4 data
  | .row5 => .pairRow5 data
  | .row6 => .pairRow6 data
  | .row7 => .pairRow7 data
  | .decodeMode => .pairDecodeMode data
  | .intensity => .pairIntensity data
  | .scanLimit => .pairScanLimit data
  | .onOff => .pairOnOff data
  | .displayTest => .pairDisplayTest data

/-- The register byte of a pair, transmitted first, is `w[15:8]` (rule R75). -/
def pairReg (w : BitVec 16) : Byte := w.extractLsb' 8 8
/-- The data byte of a pair, transmitted second, is `w[7:0]` (rule R75). -/
def pairData (w : BitVec 16) : Byte := w.extractLsb' 0 8

/-- The pair a chip latches, as an instruction; a register byte the source does not name is rejected (rules R80, R86). -/
def decodePair (w : BitVec 16) : Except Illegal Instr :=
  match Register.ofCode (pairReg w) with
  | some r => .ok (pairInstr r (pairData w))
  | none => .error (.unnamedCode (pairReg w))

/-- Byte `a` of the buffer a descriptor supplies; a byte it does not supply is indeterminate (rule R22). -/
def Descriptor.byte (d : Descriptor) (a : Nat) : Byte := (d.buf[a]?).getD (Config.freeBufByte 0 a)

/-- Decoding of either encoding, on a block whose `BUF` holds `bufMax` bytes. -/
def decode (bufMax : Nat) : Encoded → Except Illegal Instr
  | .descriptor d => decodeDescriptor bufMax d.byte d.w0 d.w1 d.w2
  | .pair w => decodePair w

/-- `W0` from its four fields, `C` on the left (rule R70). -/
def packW0 (c b a opc : Byte) : Word32 := c ++ b ++ a ++ opc

/-- `W1` with `LEN` in its low half and zero in the reserved half (rule R70). -/
def packW1 (len : Nat) : Word32 := (0 : BitVec 16) ++ BitVec.ofNat 16 len

/-- A wire pair as one 16-bit word, register byte on the left (rule R75). -/
def packPair (reg data : Byte) : BitVec 16 := reg ++ data

/-- The words of an instruction (rules R70, R71, R75, R80); a field a command does not read is written 0. -/
def encode : Instr → Encoded
  | .configure n => .descriptor ⟨packW0 n 0 0 0x00, 0, 0, []⟩
  | .bcastCmd r data => .descriptor ⟨packW0 0 data r.code 0x01, 0, 0, []⟩
  | .clear => .descriptor ⟨packW0 0 0 0 0x02, 0, 0, []⟩
  | .bcastRaw reg data => .descriptor ⟨packW0 0 data reg 0x03, 0, 0, []⟩
  | .writeLine line payload => .descriptor ⟨packW0 line 0 0 0x04, packW1 payload.length, 0, payload⟩
  | .writeDevice dev reg data => .descriptor ⟨packW0 dev data reg 0x05, 0, 0, []⟩
  | .renderText text xPos => .descriptor ⟨packW0 0 0 0 0x06, packW1 text.length, BitVec.ofInt 32 xPos, text⟩
  | .rotate m => .descriptor ⟨packW0 0 0 0 0x07, packW1 8, 0, matrixBytes m⟩
  | .pairNoop data => .pair (packPair 0x00 data)
  | .pairRow0 data => .pair (packPair 0x01 data)
  | .pairRow1 data => .pair (packPair 0x02 data)
  | .pairRow2 data => .pair (packPair 0x03 data)
  | .pairRow3 data => .pair (packPair 0x04 data)
  | .pairRow4 data => .pair (packPair 0x05 data)
  | .pairRow5 data => .pair (packPair 0x06 data)
  | .pairRow6 data => .pair (packPair 0x07 data)
  | .pairRow7 data => .pair (packPair 0x08 data)
  | .pairDecodeMode data => .pair (packPair 0x09 data)
  | .pairIntensity data => .pair (packPair 0x0A data)
  | .pairScanLimit data => .pair (packPair 0x0B data)
  | .pairOnOff data => .pair (packPair 0x0C data)
  | .pairDisplayTest data => .pair (packPair 0x0F data)

/-- The words a table row's bits `w` stand for: 16 bits are a wire pair (the table's `wire_pair` format), anything
else is a descriptor, `W0` in bits 31..0, `W1` in bits 63..32, `W2` in bits 95..64, with no byte of `BUF` supplied. -/
def tableWords (nbits w : Nat) : Encoded :=
  if nbits = 16 then .pair (BitVec.ofNat 16 w)
  else .descriptor ⟨BitVec.ofNat 32 w, BitVec.ofNat 32 (w / 2 ^ 32), BitVec.ofNat 32 (w / 2 ^ 64), []⟩

/-- The instruction the decoder reads from a table row's bits, with `BUF_MAX` at its default (log entries 19, 22, 23). -/
def decodeTableWord (nbits w : Nat) : Option Instr :=
  match decode Params.default.bufMax (tableWords nbits w) with
  | .ok i => some i
  | .error _ => none

end Sys2Proof
end

