-- ==== Sys2Proof/Machine/Flags.lean ====
section
/-! DEFINITION. The flag-like registers (section 6 of `10_state.md`): their codes, and what each becomes. The block has
no condition codes. -/

namespace Sys2Proof.Machine

/-- The 2-bit code of `MODE` (rule R19). -/
def modeCode : Mode → BitVec 2
  | .unconfigured => 0
  | .idle => 1
  | .busy => 2

/-- The 2-bit code of `SEL_STATE` (rule R29). -/
def selStateCode : SelState → BitVec 2
  | .deasserted => 0
  | .asserted => 1
  | .unknown => 2

/-- The 4-bit code of `STATUS` (rule R160). -/
def statusCode : Status → BitVec 4
  | .ok => 0
  | .transportError => 1
  | .signalError => 2
  | .invalidLineIndex => 3
  | .invalidPayloadLength => 4
  | .invalidDeviceIndex => 5
  | .configError => 6
  | .illegalCommand => 7
  | .cancelled => 8

/-- The status a completion reports (rule R160). -/
def completionStatus : Completion → Status
  | .ok => .ok
  | .transportError _ => .transportError
  | .signalError _ => .signalError
  | .invalidLineIndex => .invalidLineIndex
  | .invalidPayloadLength => .invalidPayloadLength
  | .invalidDeviceIndex => .invalidDeviceIndex
  | .configError => .configError
  | .illegalCommand => .illegalCommand
  | .cancelled => .cancelled

/-- `ERRINFO` after a command ends: the wrapped value for codes 1 and 2, otherwise what it held (rules R27, R166, U8). -/
def errInfoAfter (old : ErrInfo) : Completion → ErrInfo
  | .transportError e => .transport e
  | .signalError e => .signal e
  | .ok => old
  | .invalidLineIndex => old
  | .invalidPayloadLength => old
  | .invalidDeviceIndex => old
  | .configError => old
  | .illegalCommand => old
  | .cancelled => old

/-- `MODE` after a command ends: a BUSY block becomes IDLE (rules R19, R166). -/
def modeAfterEnd : Mode → Mode
  | .busy => .idle
  | .idle => .idle
  | .unconfigured => .unconfigured

/-- `SEL_STATE` after an answered select request (rule R29). -/
def selStateAfter : Sel → Answer → SelState
  | .assert, .ok => .asserted
  | .deassert, .ok => .deasserted
  | .assert, .err _ => .unknown
  | .deassert, .err _ => .unknown

/-- The level of the line after an answered select request: the requested one, or indeterminate (rules R17, R177). -/
def lineAfter : Sel → Answer → Option Sel
  | l, .ok => some l
  | _, .err _ => none

/-- The first-error latch: written only when it is `none` (rules R28, R103, R104, R169). -/
def latchError (old : Option Completion) (c : Completion) : Option Completion :=
  match old with
  | none => some c
  | some first => some first

/-- The other electrical level. -/
def oppositeLevel : Level → Level
  | .low => .high
  | .high => .low

/-- The electrical level of a select request: `SEL_ASSERT_LEVEL` means asserted (rules R5, R17, decision D9). -/
def selLevel (assertLevel : Level) : Sel → Level
  | .assert => assertLevel
  | .deassert => oppositeLevel assertLevel

end Sys2Proof.Machine
end

