-- ==== Sys2Proof/Machine/Ops.lean ====
section
/-! DEFINITION. The named operations over memory and registers: the byte memories, the end of a command (what this
hardware has in place of taking an exception), the beginning of one, the issue of a request, reset, and the chips'
cells. -/

namespace Sys2Proof

/-! ### Memory: (address, byte) pairs in one canonical form -/

/-- The canonical form: addresses strictly rising. (An unlisted address holds no value, so no entry can equal it.) -/
abbrev Memory.wf (m : Memory) : Prop := m.Pairwise (fun x y => x.1 < y.1)

/-- The byte at an address, or `none` where nothing has been written. -/
def Memory.read : Memory → Nat → Option Byte
  | [], _ => none
  | (k, v) :: m, a => if k = a then some v else Memory.read m a

/-- Write one byte, keeping the canonical form. -/
def Memory.write : Memory → Nat → Byte → Memory
  | [], a, v => [(a, v)]
  | (k, w) :: m, a, v =>
    if a < k then (a, v) :: (k, w) :: m
    else if a = k then (a, v) :: m
    else (k, w) :: Memory.write m a v

/-- Forget the byte at every address for which `gone` holds. -/
def Memory.forget (m : Memory) (gone : Nat → Bool) : Memory := m.filter (fun c => !gone c.1)

end Sys2Proof

namespace Sys2Proof.Machine

/-- Go on with the next state, or stop where the first part stopped. -/
def andThen (r : Result) (f : State → Result) : Result :=
  match r with
  | .next s => f s
  | .fault e => .fault e
  | .refused e => .refused e

/-! ### The trace and the ports -/

/-- Add one event to the trace (rule R10). -/
def emit (e : Event) (s : State) : State := { s with trace := s.trace ++ [e] }

/-- The event of issuing a request (rule R10). -/
def requestEvent : Request → Event
  | .sel l => .sel l
  | .tx b => .tx b

/-- The collaborator a request goes to (rules R16, R17). -/
def requestedOf : Request → Collaborator
  | .sel _ => .seldrv
  | .tx _ => .xfer

/-- How many requests of a list are bytes, owed by the serial primitive. -/
def owedBytes (rs : List Request) : Nat := rs.countP (fun r => requestedOf r == .xfer)

/-- Issue a request and wait at `next` for its answer (rules R16, R17). -/
def issue (r : Request) (next : Seq) (s : State) : State :=
  { s with outstanding := some r, seq := next, trace := s.trace ++ [requestEvent r] }

/-- The answer to the block's own request has come: no request is outstanding, and the trace pairs it with the request
(rules R10, R16). -/
def takeAnswer (a : Answer) (s : State) : State :=
  { s with outstanding := none, trace := s.trace ++ [.answered a] }

/-! ### The end of a command: this hardware's one exception entry; there is no return (rule R170) -/

/-- `End(s, e)` of rule R166: STATUS, ERRINFO (codes 1 and 2), CANCEL_PEND, SEQ, MODE, and the event `DONE(s, e)`. No
position is saved and nothing is vectored. The command is no longer in flight (log entry 12). -/
def endCommand (c : Completion) (s : State) : State :=
  { s with
    status := completionStatus c
    errInfo := errInfoAfter s.errInfo c
    cancelPend := false
    seq := .idle
    mode := modeAfterEnd s.mode
    inFlight := none
    trace := s.trace ++ [.done c] }

/-- The last line of rule R106: BUSY, about to assert for frame 0. -/
def beginFrames (i : Instr) (s : State) : State :=
  { s with mode := .busy, seq := .assert 0, inFlight := some i }

/-- The acceptance of a frame-sending command (rules R106, R165, R167): BUSY accepts nothing (rule R15), an
unconfigured block raises ConfigError, then the command's own operand checks, then the frames begin. -/
def acceptFrames (i : Instr) (operandError : Option Completion) (s : State) : Result :=
  match s.mode with
  | .busy => .next s
  | .unconfigured => .next (endCommand .configError s)
  | .idle =>
    match operandError with
    | some c => .next (endCommand c s)
    | none => .next (beginFrames i s)

/-! ### The chips' cells (rules R44, R55) -/

/-- How many chips the chain has (rule R55: `N`; rule R205: the number really wired). -/
def chainLength (s : State) : Nat := s.chain.chips.getD s.n.toNat

/-- The place of `CREG[p][code]`. -/
def cellAddress (p : Nat) (code : Byte) : Nat := 256 * p + code.toNat

/-- `CREG[p][code]`, or `none` where it is indeterminate. -/
def chipCell (s : State) (p : Nat) (code : Byte) : Option Byte := s.chain.creg.read (cellAddress p code)

/-- `CREG[p][code] <- v`. -/
def writeChipCell (p : Nat) (code v : Byte) (s : State) : State :=
  { s with chain := { s.chain with creg := s.chain.creg.write (cellAddress p code) v } }

/-- Every register of the chip at pos `p` becomes indeterminate (rule R58). -/
def forgetChip (p : Nat) (s : State) : State :=
  { s with chain := { s.chain with creg := s.chain.creg.forget (fun a => a / 256 == p) } }

/-- The shift registers and every register of every chip become indeterminate (rule R59). -/
def forgetChain (s : State) : State := { s with chain := { s.chain with sr := [], creg := [] } }

/-! ### Reset (rules R33, R190, R191, R192) -/

/-- The `RESET` input (rule R190): every piece of block state at its reset value, no event, no release. A running
command is abandoned and its outstanding request with it (rule R191). The chips and the line are not touched (rule
R192); the chain that was there stays there, although `N` is forgotten (log entry 7). -/
def resetBlock (s : State) : State :=
  { s with
    mode := .unconfigured
    n := State.reset.n
    w0 := State.reset.w0
    w1 := State.reset.w1
    w2 := State.reset.w2
    buf := State.reset.buf
    res := State.reset.res
    status := State.reset.status
    errInfo := State.reset.errInfo
    selState := State.reset.selState
    cancelPend := State.reset.cancelPend
    seq := State.reset.seq
    err := State.reset.err
    outstanding := State.reset.outstanding
    inFlight := none
    abandoned := s.abandoned ++ s.outstanding.toList
    chain := { s.chain with chips := if s.mode = .unconfigured then s.chain.chips else some (chainLength s) } }

end Sys2Proof.Machine
end

