-- ==== Sys2Proof/Machine/Addressed.lean ====
section
/-! DEFINITION. The commands that address a line or one chip: WRITE_LINE and WRITE_DEVICE (rules R114, R115). -/

namespace Sys2Proof.Machine

/-- WRITE_LINE's checks, the line index first (rules R106, R114, R163, R164, R167). -/
def writeLineError (line : Byte) (payload : List Byte) (n : Byte) : Option Completion :=
  if 7 < line.toNat then some .invalidLineIndex
  else if payload.length ≠ n.toNat then some .invalidPayloadLength
  else none

/-- WRITE_LINE sends `(line + 1, payload[t])` in slot `t` (rules R82, R114). -/
def writeLinePair (line : Byte) (payload : List Byte) (t : Nat) : Option (Byte × Byte) :=
  (payload[t]?).map (fun d => (BitVec.ofNat 8 (line.toNat + 1), d))

/-- WRITE_LINE(line, payload) (rules R106, R114). -/
def execWriteLine (line : Byte) (payload : List Byte) (s : State) : Result :=
  acceptFrames (.writeLine line payload) (writeLineError line payload s.n) s

/-- WRITE_DEVICE's check `dev < N` (rules R106, R115). -/
def writeDeviceError (dev n : Byte) : Option Completion :=
  if n.toNat ≤ dev.toNat then some .invalidDeviceIndex else none

/-- WRITE_DEVICE sends `(reg, data)` in slot `N - 1 - dev` and the no-op pair in every other (rule R115). -/
def writeDevicePair (n : Nat) (dev reg data : Byte) (t : Nat) : Byte × Byte :=
  if t + dev.toNat + 1 = n then (reg, data) else (0x00, 0x00)

/-- WRITE_DEVICE(dev, reg, data) (rules R106, R115). -/
def execWriteDevice (dev reg data : Byte) (s : State) : Result :=
  acceptFrames (.writeDevice dev reg data) (writeDeviceError dev s.n) s

end Sys2Proof.Machine
end

