-- ==== Sys2Proof/Machine/Broadcast.lean ====
section
/-! DEFINITION. The broadcasting commands: BCAST_CMD, CLEAR, BCAST_RAW (rules R111, R112, R113). Each has its pairs and
its acceptance; the frames follow by the sequencer. -/

namespace Sys2Proof.Machine

/-- BCAST_CMD sends `(code(reg), data)` in every slot (rule R111). -/
def bcastCmdPair (reg : Register) (data : Byte) (_t : Nat) : Byte × Byte := (reg.code, data)

/-- CLEAR sends `(f + 1, 0x00)` in every slot of frame `f` (rules R82, R112). -/
def clearPair (f _t : Nat) : Byte × Byte := (BitVec.ofNat 8 (f + 1), 0x00)

/-- BCAST_RAW sends `(reg, data)` in every slot, unchecked (rules R84, R113). -/
def bcastRawPair (reg data : Byte) (_t : Nat) : Byte × Byte := (reg, data)

/-- BCAST_CMD(reg, data) (rules R106, R111). -/
def execBcastCmd (reg : Register) (data : Byte) (s : State) : Result := acceptFrames (.bcastCmd reg data) none s

/-- CLEAR (rules R106, R112). -/
def execClear (s : State) : Result := acceptFrames .clear none s

/-- BCAST_RAW(reg, data) (rules R106, R113). -/
def execBcastRaw (reg data : Byte) (s : State) : Result := acceptFrames (.bcastRaw reg data) none s

end Sys2Proof.Machine
end

