-- ==== Sys2Proof/Machine/ChipPairs.lean ====
section
/-! DEFINITION. The wire pairs at a chip: what the chip that is latching (`chain.latchPos`) does with the pair it holds
(rules R58, R60). One meaning per register code of rule R80. -/

namespace Sys2Proof.Machine

/-- The chip that is latching stores `v` in its register `code`; no other cell of any chip changes (rule R58). -/
def latchCell (code v : Byte) (s : State) : State := writeChipCell s.chain.latchPos code v s

/-- The pair (0x00, data), the no-op (rules R58, R60, R87): no effect as far as the platform promises it, else every
register of that chip becomes indeterminate (entry U14, log entry 8). -/
def execPairNoop (data : Byte) (s : State) : Result :=
  match s.params.noop with
  | .anyData => .next s
  | .zeroData => if data = 0x00 then .next s else .next (forgetChip s.chain.latchPos s)
  | .nothing => .next (forgetChip s.chain.latchPos s)

/-- The pair (0x01, data): Row 0 holds the pattern of one display row (rule R58). -/
def execPairRow0 (data : Byte) (s : State) : Result := .next (latchCell 0x01 data s)

/-- The pair (0x02, data): Row 1 holds the pattern of one display row (rule R58). -/
def execPairRow1 (data : Byte) (s : State) : Result := .next (latchCell 0x02 data s)

/-- The pair (0x03, data): Row 2 holds the pattern of one display row (rule R58). -/
def execPairRow2 (data : Byte) (s : State) : Result := .next (latchCell 0x03 data s)

/-- The pair (0x04, data): Row 3 holds the pattern of one display row (rule R58). -/
def execPairRow3 (data : Byte) (s : State) : Result := .next (latchCell 0x04 data s)

/-- The pair (0x05, data): Row 4 holds the pattern of one display row (rule R58). -/
def execPairRow4 (data : Byte) (s : State) : Result := .next (latchCell 0x05 data s)

/-- The pair (0x06, data): Row 5 holds the pattern of one display row (rule R58). -/
def execPairRow5 (data : Byte) (s : State) : Result := .next (latchCell 0x06 data s)

/-- The pair (0x07, data): Row 6 holds the pattern of one display row (rule R58). -/
def execPairRow6 (data : Byte) (s : State) : Result := .next (latchCell 0x07 data s)

/-- The pair (0x08, data): Row 7 holds the pattern of one display row (rule R58). -/
def execPairRow7 (data : Byte) (s : State) : Result := .next (latchCell 0x08 data s)

/-- The pair (0x09, data): DecodeMode takes the byte; what the chip then does is not in the source (rule R58, entry U15). -/
def execPairDecodeMode (data : Byte) (s : State) : Result := .next (latchCell 0x09 data s)

/-- The pair (0x0A, data): Intensity takes the byte; what the chip then does is not in the source (rule R58, entry U15). -/
def execPairIntensity (data : Byte) (s : State) : Result := .next (latchCell 0x0A data s)

/-- The pair (0x0B, data): ScanLimit takes the byte; what the chip then does is not in the source (rule R58, entry U15). -/
def execPairScanLimit (data : Byte) (s : State) : Result := .next (latchCell 0x0B data s)

/-- The pair (0x0C, data): OnOff takes the byte; what the chip then does is not in the source (rule R58, entry U15). -/
def execPairOnOff (data : Byte) (s : State) : Result := .next (latchCell 0x0C data s)

/-- The pair (0x0F, data): DisplayTest takes the byte; what the chip then does is not in the source (rule R58, entry U15). -/
def execPairDisplayTest (data : Byte) (s : State) : Result := .next (latchCell 0x0F data s)

end Sys2Proof.Machine
end

