-- ==== Sys2Proof/Machine/Operands.lean ====
section
/-! DEFINITION. The operand forms: bytes of `BUF`, glyph rows, matrix rows, the byte operations of rule R7, the values
the host reads at the command port, and the electrical level of the select line. -/

namespace Sys2Proof.Machine

/-- `shr8(b, k)` (rule R7): a logical shift toward bit 0. -/
def shr8 (b : Byte) (k : Nat) : Byte := b >>> k

/-- `shl8(b, k)` (rule R7): a shift toward bit 7; bits shifted past it are lost. -/
def shl8 (b : Byte) (k : Nat) : Byte := b <<< k

/-- `or8(a, b)` (rule R7). -/
def or8 (a b : Byte) : Byte := a ||| b

/-- `BUF[a]` as a command reads it (rules R22, R42): the byte the host wrote, else an indeterminate byte, a free value
of this draw (log entry 4). -/
def bufByte (s : State) (a : Nat) : Byte := (s.buf.read a).getD (Config.freeBufByte s.draws a)

/-- `G(c)[r]` (rules R18, R41): the platform's table where it gives the byte, else the free table (log entry 6). -/
def glyphRow (p : Params) (c : Byte) (r : Nat) : Byte := (p.glyph.read (8 * c.toNat + r)).getD (Config.glyph c r)

/-- Row `i` of a matrix, `m[i]` (rule R150). -/
def matrixRow (m : Matrix8) (i : Fin 8) : Byte :=
  match i with
  | 0 => m.r0
  | 1 => m.r1
  | 2 => m.r2
  | 3 => m.r3
  | 4 => m.r4
  | 5 => m.r5
  | 6 => m.r6
  | 7 => m.r7

/-- `m[i][j]`, the pixel at row `i`, column `j` (rule R150). -/
def matrixBit (m : Matrix8) (i j : Fin 8) : Bool := (matrixRow m i).getLsbD j.val

/-- What a read at the command port returns (rules R15, R19, R20, R23, R26, R27, R29). -/
def portRead (s : State) : PortReg → PortValue
  | .status => .status (statusCode s.status)
  | .errInfo => .errInfo s.errInfo
  | .selState => .selState (selStateCode s.selState)
  | .mode => .mode (modeCode s.mode)
  | .n => .n s.n
  | .res a => .res (matrixRow s.res a)

/-- The electrical level of the select line, where it is known (rules R5, R17, R31). -/
def lineLevel (s : State) : Option Level := s.line.map (selLevel s.params.selAssertLevel)

end Sys2Proof.Machine
end

