-- ==== Sys2Proof/Machine/Compositor.lean ====
section
/-! DEFINITION. The TextCompositor: RENDER_TEXT (rules R130 to R140), step by step as the source gives it, and the
closed form of rule R139. `glyph c r` stands for `G(c)[r]`. -/

namespace Sys2Proof.Machine

/-- `char_base = tdiv(x_pos, 8)`, rounding toward zero (rules R8, R131; `90_conflicts.md` C1). -/
def charBase (xPos : Int) : Int := xPos.tdiv 8

/-- `shift = trem(x_pos, 8)`, in -7..7 with the sign of `x_pos` (rules R8, R131). -/
def charShift (xPos : Int) : Int := xPos.tmod 8

/-- `idx = N - d - 1 - char_base` (rule R132). -/
def charIndex (n d : Nat) (xPos : Int) : Int := (n : Int) - d - 1 - charBase xPos

/-- `row(i)`: the glyph row of `text[i]`, and of the sentinel `G(0)` out of the text, the index `L` included
(rule R133; `90_conflicts.md` C3). -/
def textRow (glyph : Byte → Nat → Byte) (text : List Byte) (r : Nat) (i : Int) : Byte :=
  if 0 ≤ i then
    match text[i.toNat]? with
    | some c => glyph c r
    | none => glyph 0 r
  else glyph 0 r

/-- The byte from the three glyph rows around a slot (rule R135). -/
def blend (shift : Int) (left middle right : Byte) : Byte :=
  if shift = 0 then middle
  else if shift < 0 then or8 (shr8 middle shift.natAbs) (shl8 right (8 - shift.natAbs))
  else or8 (shl8 middle shift.natAbs) (shr8 left (8 - shift.natAbs))

/-- `Compose(text, x_pos, d, r)` (rules R131 to R135), on a chain of `n` chips. -/
def compose (glyph : Byte → Nat → Byte) (n : Nat) (text : List Byte) (xPos : Int) (d r : Nat) : Byte :=
  blend (charShift xPos)
    (textRow glyph text r (charIndex n d xPos - 1))
    (textRow glyph text r (charIndex n d xPos))
    (textRow glyph text r (charIndex n d xPos + 1))

/-- `textpixel(v, r)` (rule R139): the pixel of row `r` of the text at text column `v`, floor and mod toward minus
infinity. -/
def textPixel (glyph : Byte → Nat → Byte) (text : List Byte) (v : Int) (r : Nat) : Bool :=
  (textRow glyph text r (v.fdiv 8)).getLsbD (v.fmod 8).toNat

/-- RENDER_TEXT sends `(f + 1, Compose(text, x_pos, t, f))` in slot `t` of frame `f` (rules R82, R136). -/
def renderPair (glyph : Byte → Nat → Byte) (n : Nat) (text : List Byte) (xPos : Int) (f t : Nat) : Byte × Byte :=
  (BitVec.ofNat 8 (f + 1), compose glyph n text xPos t f)

/-- RENDER_TEXT(text, x_pos) (rules R106, R134, R136): nothing but the mode is checked. -/
def execRenderText (text : List Byte) (xPos : Int) (s : State) : Result :=
  acceptFrames (.renderText text xPos) none s

end Sys2Proof.Machine
end

