-- ==== Sys2Proof/Machine/Configure.lean ====
section
/-! DEFINITION. CONFIGURE, the one command that changes the block's own configuration (rules R110, R117). -/

namespace Sys2Proof.Machine

/-- `1 ≤ n ≤ N_MAX` (rules R5, R110). -/
def lengthAllowed (p : Params) (n : Byte) : Bool := decide (1 ≤ n.toNat) && decide (n.toNat ≤ p.nMax)

/-- CONFIGURE(n) (rules R106, R110): `N <- n; MODE <- IDLE; done(OK)` on an unconfigured block with 1 ≤ n ≤ N_MAX,
else ConfigError. It sends nothing. While BUSY nothing is accepted (rule R15). -/
def execConfigure (n : Byte) (s : State) : Result :=
  match s.mode with
  | .busy => .next s
  | .idle => .next (endCommand .configError s)
  | .unconfigured =>
    if lengthAllowed s.params n then .next (endCommand .ok { s with n := n, mode := .idle })
    else .next (endCommand .configError s)

end Sys2Proof.Machine
end

