-- ==== Sys2Proof/Machine/Rotator.lean ====
section
/-! DEFINITION. The BitMatrixRotator: ROTATE (rules R150 to R153). -/

namespace Sys2Proof.Machine

/-- Row `a` of `rot(m)`: bit `b` is `m[b][7 - a]` (rule R151). -/
def rotRow (m : Matrix8) (a : Fin 8) : Byte := BitVec.ofFnLE (fun b : Fin 8 => matrixBit m b a.rev)

/-- `rot(m)` (rule R151). -/
def rot (m : Matrix8) : Matrix8 :=
  ⟨rotRow m 0, rotRow m 1, rotRow m 2, rotRow m 3, rotRow m 4, rotRow m 5, rotRow m 6, rotRow m 7⟩

/-- ROTATE(m) (rules R106, R151): `RES <- rot(m); done(OK)`, configured or not; while BUSY nothing is accepted
(rule R15). -/
def execRotate (m : Matrix8) (s : State) : Result :=
  match s.mode with
  | .busy => .next s
  | .unconfigured => .next (endCommand .ok { s with res := rot m })
  | .idle => .next (endCommand .ok { s with res := rot m })

end Sys2Proof.Machine
end

