-- ==== Sys2Proof/Machine/Dispatch.lean ====
section
/-! DEFINITION. The dispatch: one arm per instruction, each one call of its meaning. -/

namespace Sys2Proof.Machine

def exec (i : Instr) (s : State) : Host.Outcome State Fault Refusal :=
  match i with
  | .configure n => Sys2Proof.Machine.execConfigure n s
  | .bcastCmd reg data => Sys2Proof.Machine.execBcastCmd reg data s
  | .clear => Sys2Proof.Machine.execClear s
  | .bcastRaw reg data => Sys2Proof.Machine.execBcastRaw reg data s
  | .writeLine line payload => Sys2Proof.Machine.execWriteLine line payload s
  | .writeDevice dev reg data => Sys2Proof.Machine.execWriteDevice dev reg data s
  | .renderText text xPos => Sys2Proof.Machine.execRenderText text xPos s
  | .rotate m => Sys2Proof.Machine.execRotate m s
  | .pairNoop data => Sys2Proof.Machine.execPairNoop data s
  | .pairRow0 data => Sys2Proof.Machine.execPairRow0 data s
  | .pairRow1 data => Sys2Proof.Machine.execPairRow1 data s
  | .pairRow2 data => Sys2Proof.Machine.execPairRow2 data s
  | .pairRow3 data => Sys2Proof.Machine.execPairRow3 data s
  | .pairRow4 data => Sys2Proof.Machine.execPairRow4 data s
  | .pairRow5 data => Sys2Proof.Machine.execPairRow5 data s
  | .pairRow6 data => Sys2Proof.Machine.execPairRow6 data s
  | .pairRow7 data => Sys2Proof.Machine.execPairRow7 data s
  | .pairDecodeMode data => Sys2Proof.Machine.execPairDecodeMode data s
  | .pairIntensity data => Sys2Proof.Machine.execPairIntensity data s
  | .pairScanLimit data => Sys2Proof.Machine.execPairScanLimit data s
  | .pairOnOff data => Sys2Proof.Machine.execPairOnOff data s
  | .pairDisplayTest data => Sys2Proof.Machine.execPairDisplayTest data s

end Sys2Proof.Machine
end

