-- ==== Sys2Proof/Machine/HostPort.lean ====
section
/-! DEFINITION. The command port (rule R15): what the host can do, and the acceptance of a command (rule R106). -/

namespace Sys2Proof.Machine

/-- The instruction the descriptor and `BUF` now spell (rules R73, R106). -/
def fetchCommand (s : State) : Except Illegal Instr :=
  decodeDescriptor s.params.bufMax (bufByte s) s.w0 s.w1 s.w2

/-- What acceptance does before it looks at the command: `ERR <- none` (rule R106), and the bytes of `BUF` that have not
been written are drawn afresh (log entry 4). -/
def beginAcceptance (s : State) : State := { s with err := none, draws := s.draws + 1 }

/-- `START` (rules R15, R85, R106, R165): not accepted while BUSY; an illegal descriptor ends with IllegalCommand;
otherwise the command runs. -/
def startCommand (s : State) : Result :=
  if s.mode = .busy then .next s
  else
    match fetchCommand s with
    | .ok i => exec i (beginAcceptance s)
    | .error _ => .next (endCommand .illegalCommand (beginAcceptance s))

/-- A write of `BUF[a]`; there is no byte at or beyond `BUF_MAX` (rule R22, log entry 15). -/
def writeBuf (a : Nat) (v : Byte) (s : State) : Result :=
  if a < s.params.bufMax then .next { s with buf := s.buf.write a v } else .fault (.noSuchBufByte a)

/-- `CANCEL` (rules R15, R30, R173). -/
def raiseCancel (s : State) : State := if s.mode = .busy then { s with cancelPend := true } else s

/-- One action of the host (rule R15). While BUSY the port accepts no write and no `START`. -/
def hostStep (a : HostAction) (s : State) : Result :=
  match a with
  | .writeW0 v => if s.mode = .busy then .next s else .next { s with w0 := v }
  | .writeW1 v => if s.mode = .busy then .next s else .next { s with w1 := v }
  | .writeW2 v => if s.mode = .busy then .next s else .next { s with w2 := v }
  | .writeBuf i v => if s.mode = .busy then .next s else writeBuf i v s
  | .start => startCommand s
  | .cancel => .next (raiseCancel s)
  | .read r => .next { s with portData := some (portRead s r) }
  | .reset => .next (resetBlock s)

end Sys2Proof.Machine
end

