-- ==== Sys2Proof/Machine/Chain.lean ====
section
/-! DEFINITION. The environment's steps (rules R55 to R59, R177): what an answered request does to the select line and
to the chips. At the latch of a complete frame every chip runs the pair it holds. -/

namespace Sys2Proof.Machine

/-- The pair the chip at pos `p` holds: register byte `SR[2p+1]`, data byte `SR[2p]` (rules R55, R57, R58); `none` where
a byte of it is indeterminate. -/
def chipPair (s : State) (p : Nat) : Option (BitVec 16) :=
  match s.chain.sr[2 * p + 1]?, s.chain.sr[2 * p]? with
  | some reg, some data => some (packPair reg data)
  | _, _ => none

/-- Name the chip that latches. -/
def selectChip (p : Nat) (s : State) : State := { s with chain := { s.chain with latchPos := p } }

/-- The chip at pos `p` latches its pair (rule R58): it runs the pair as an instruction; a register code the source does
not name, and an indeterminate pair, make every register of that chip indeterminate. -/
def latchChip (p : Nat) (s : State) : Result :=
  match chipPair s p with
  | none => .next (forgetChip p s)
  | some w =>
    match decodePair w with
    | .ok i => exec i (selectChip p s)
    | .error _ => .next (forgetChip p s)

/-- The chips of a list latch, one after another; each touches only its own cells. -/
def latchChips : List Nat → State → Result
  | [], s => .next s
  | p :: ps, s => andThen (latchChip p s) (latchChips ps)

/-- The open frame is complete: nothing failed and exactly the chain's 2 bytes per chip were shifted (rules R56, R205).
The count is held against the chips really wired, also where they are fewer than `N` says and a cancel ends the frame
after exactly their bytes (DESIGN CHOICE, log entry 29). -/
def frameComplete (s : State) : Bool :=
  s.chain.frameOpen && !s.chain.bad && s.chain.cnt == 2 * chainLength s

/-- No frame is open any more (rule R56). -/
def closeFrame (s : State) : State := { s with chain := { s.chain with frameOpen := false } }

/-- `SelSet(ASSERT)` answered `ok` (rule R56). The bytes a `RESET` abandoned and that are still owed an answer are none of
the frame this opens (rule R203, log entry 30). -/
def chainAssertOk (s : State) : State :=
  { s with chain := { s.chain with frameOpen := true, cnt := 0, bad := false, stale := owedBytes s.abandoned } }

/-- `SelSet(ASSERT)` answered `err` (rule R56). -/
def chainAssertErr (s : State) : State := { s with chain := { s.chain with frameOpen := true, bad := true } }

/-- `Tx(b)` answered `ok` (rule R56): every byte moves one place toward the far end. The model gives no row for a byte
outside a frame; there the shift registers become indeterminate (log entry 16). -/
def chainTxOk (b : Byte) (s : State) : State :=
  if s.chain.frameOpen then
    { s with chain := { s.chain with sr := (b :: s.chain.sr).take (2 * chainLength s), cnt := s.chain.cnt + 1 } }
  else { s with chain := { s.chain with sr := [] } }

/-- `Tx(b)` answered `err` (rule R56): none, some or all of the byte's bits may have been shifted (entry U18), so the
shift registers become indeterminate (DESIGN CHOICE, log entry 28); outside a frame as above (log entry 16). -/
def chainTxErr (s : State) : State :=
  if s.chain.frameOpen then { s with chain := { s.chain with sr := [], bad := true } }
  else { s with chain := { s.chain with sr := [] } }

/-- `SelSet(DEASSERT)` answered `ok` (rules R50, R56, R58, R59): a complete frame is latched by all chips at once, anything
else leaves every chip indeterminate; no frame is open afterwards. -/
def chainDeassertOk (s : State) : Result :=
  if frameComplete s then latchChips (List.range (chainLength s)) (closeFrame s)
  else .next (forgetChain (closeFrame s))

/-- `SelSet(DEASSERT)` answered `err` (rules R56, R59). -/
def chainDeassertErr (s : State) : State :=
  { forgetChain s with chain := { (forgetChain s).chain with bad := true } }

/-- The level of the line after an answered select request (rules R17, R177). -/
def driveLine (l : Sel) (a : Answer) (s : State) : State := { s with line := lineAfter l a }

/-- What an answered request does outside the block (rules R17, R56). -/
def environmentAnswer (r : Request) (a : Answer) (s : State) : Result :=
  match r, a with
  | .sel .assert, .ok => .next (chainAssertOk (driveLine .assert .ok s))
  | .sel .assert, .err e => .next (chainAssertErr (driveLine .assert (.err e) s))
  | .sel .deassert, .ok => chainDeassertOk (driveLine .deassert .ok s)
  | .sel .deassert, .err e => .next (chainDeassertErr (driveLine .deassert (.err e) s))
  | .tx b, .ok => .next (chainTxOk b s)
  | .tx _, .err _ => .next (chainTxErr s)

/-- The byte of an abandoned `Tx` that is older than the open frame: it moves the shift registers, or may have where the
transfer failed (entry U18), and leaves `CNT` and `BAD` of that frame (DEDUCED from rule R203, log entry 30). -/
def staleByte (b : Byte) (a : Answer) (s : State) : State :=
  match a with
  | .ok => { s with chain := { s.chain with sr := (chainTxOk b s).chain.sr, stale := s.chain.stale - 1 } }
  | .err _ => { s with chain := { s.chain with sr := (chainTxErr s).chain.sr, stale := s.chain.stale - 1 } }

/-- What the answer to a request that a `RESET` abandoned does outside the block (rule R191): what rule R56 says, but for a
byte that is older than the open frame. Those come first, since the serial primitive answers in order (rule R176 (b)). -/
def lateAnswer (r : Request) (a : Answer) (s : State) : Result :=
  match r with
  | .sel l => environmentAnswer (.sel l) a s
  | .tx b => if s.chain.stale = 0 then environmentAnswer (.tx b) a s else .next (staleByte b a s)

/-- `displaypixel(u, r)`: bit `u mod 8` of row register `r` of the chip at pos `u / 8` (rules R61, R130); `none` where
it is indeterminate. -/
def displayPixel (s : State) (u r : Nat) : Option Bool :=
  (chipCell s (u / 8) (BitVec.ofNat 8 (r + 1))).map (fun b => b.getLsbD (u % 8))

end Sys2Proof.Machine
end

