-- ==== Sys2Proof/Machine/Frames.lean ====
section
/-! DEFINITION. A frame-sending command as rule R100 gives it: a frame count `F` and a function `pair(f, t)`. -/

namespace Sys2Proof.Machine

/-- `F` (rules R100, R105, R209): 1 or 8 frames; `none` for what sends no frame. -/
def frameCount : Instr → Option Nat
  | .bcastCmd _ _ => some 1
  | .clear => some 8
  | .bcastRaw _ _ => some 1
  | .writeLine _ _ => some 1
  | .writeDevice _ _ _ => some 1
  | .renderText _ _ => some 8
  | .configure _ => none
  | .rotate _ => none
  | .pairNoop _ => none
  | .pairRow0 _ => none
  | .pairRow1 _ => none
  | .pairRow2 _ => none
  | .pairRow3 _ => none
  | .pairRow4 _ => none
  | .pairRow5 _ => none
  | .pairRow6 _ => none
  | .pairRow7 _ => none
  | .pairDecodeMode _ => none
  | .pairIntensity _ => none
  | .pairScanLimit _ => none
  | .pairOnOff _ => none
  | .pairDisplayTest _ => none

/-- `pair(f, t)` (rules R100, R111 to R115, R136), on a chain of `n` chips and the glyph table `glyph`; `none` for what
sends no frame and for a slot WRITE_LINE has no byte for. It depends on the operands, `N` and `G` only. -/
def framePair (glyph : Byte → Nat → Byte) (n : Nat) (i : Instr) (f t : Nat) : Option (Byte × Byte) :=
  match i with
  | .bcastCmd reg data => some (bcastCmdPair reg data t)
  | .clear => some (clearPair f t)
  | .bcastRaw reg data => some (bcastRawPair reg data t)
  | .writeLine line payload => writeLinePair line payload t
  | .writeDevice dev reg data => some (writeDevicePair n dev reg data t)
  | .renderText text xPos => some (renderPair glyph n text xPos f t)
  | .configure _ => none
  | .rotate _ => none
  | .pairNoop _ => none
  | .pairRow0 _ => none
  | .pairRow1 _ => none
  | .pairRow2 _ => none
  | .pairRow3 _ => none
  | .pairRow4 _ => none
  | .pairRow5 _ => none
  | .pairRow6 _ => none
  | .pairRow7 _ => none
  | .pairDecodeMode _ => none
  | .pairIntensity _ => none
  | .pairScanLimit _ => none
  | .pairOnOff _ => none
  | .pairDisplayTest _ => none

/-- Byte `h` of a pair: 0 the register byte, 1 the data byte (rules R45, R100). -/
def pairByte (p : Byte × Byte) : Half → Byte
  | .register => p.1
  | .data => p.2

/-- `byte(f, t, h)` of the running command (rule R100). -/
def frameByte (s : State) (f t : Nat) (h : Half) : Option Byte :=
  match s.inFlight with
  | none => none
  | some i => (framePair (glyphRow s.params) s.n.toNat i f t).map (fun p => pairByte p h)

/-- `F` of the running command (rule R105). -/
def framesInFlight (s : State) : Option Nat :=
  match s.inFlight with
  | none => none
  | some i => frameCount i

end Sys2Proof.Machine
end

