-- ==== Sys2Proof/Machine/Sequencer.lean ====
section
/-! DEFINITION. The sequencer (rules R100 to R105): the steps it takes of its own, and what it does with the answers to
its requests. -/

namespace Sys2Proof.Machine

/-- The first error or cancel goes to the release step (rules R101 to R103). -/
def failFrame (c : Completion) (f : Nat) (s : State) : State :=
  { s with err := latchError s.err c, seq := .release f }

/-- `Q_ASSERT(f)` (rule R101): a pending cancel ends the command with no request; otherwise assert. -/
def assertStep (f : Nat) (s : State) : State :=
  if s.cancelPend then endCommand .cancelled { s with err := latchError s.err .cancelled }
  else issue (.sel .assert) (.waitAssert f) s

/-- `Q_BYTE(f, t, h)` (rule R102): a pending cancel goes to the release; otherwise transmit `byte(f, t, h)`. -/
def byteStep (f t : Nat) (h : Half) (s : State) : Result :=
  if s.cancelPend then .next (failFrame .cancelled f s)
  else
    match frameByte s f t h with
    | some b => .next (issue (.tx b) (.waitByte f t h) s)
    | none => .fault .noFrameToSend

/-- `Q_RELEASE(f)` (rule R104): deassert, unconditionally. -/
def releaseStep (f : Nat) (s : State) : State := issue (.sel .deassert) (.waitRelease f) s

/-- The sequencer is about to do something (it is not waiting and a command runs). -/
def sequencerEnabled (s : State) : Bool :=
  match s.seq with
  | .assert _ => true
  | .byte _ _ _ => true
  | .release _ => true
  | .idle => false
  | .waitAssert _ => false
  | .waitByte _ _ _ => false
  | .waitRelease _ => false

/-- The sequencer's own step; while it waits, or with no command in flight, it does nothing (rules R16, R107, R172). -/
def sequencerStep (s : State) : Result :=
  match s.seq with
  | .assert f => .next (assertStep f s)
  | .byte f t h => byteStep f t h s
  | .release f => .next (releaseStep f s)
  | .idle => .next s
  | .waitAssert _ => .next s
  | .waitByte _ _ _ => .next s
  | .waitRelease _ => .next s

/-- `Q_WAIT_ASSERT(f)` on the answer (rules R101, R162). -/
def assertAnswered (f : Nat) (a : Answer) (s : State) : State :=
  match a with
  | .ok => { s with selState := selStateAfter .assert a, seq := .byte f 0 .register }
  | .err e => failFrame (.signalError e) f { s with selState := selStateAfter .assert a }

/-- Where `SEQ` goes after byte `h` of slot `t` was answered `ok`, on a chain of `n` chips (rule R102). -/
def afterByte (n f t : Nat) : Half → Seq
  | .register => .byte f t .data
  | .data => if t + 1 < n then .byte f (t + 1) .register else .release f

/-- `Q_WAIT_BYTE(f, t, h)` on the answer (rules R102, R103, R161). -/
def byteAnswered (f t : Nat) (h : Half) (a : Answer) (s : State) : State :=
  match a with
  | .ok => { s with seq := afterByte s.n.toNat f t h }
  | .err e => failFrame (.transportError e) f s

/-- `ERR` after the release of a frame was answered (rules R104, R169). -/
def errAfterRelease (err : Option Completion) : Answer → Option Completion
  | .ok => err
  | .err e => latchError err (.signalError e)

/-- After the release of frame `f`: end with the latched error, go to the next frame, or end with OK (rules R104, R105). -/
def nextFrame (f : Nat) (s : State) : Result :=
  match s.err with
  | some c => .next (endCommand c s)
  | none =>
    match framesInFlight s with
    | none => .fault .noFrameToSend
    | some count => if f + 1 < count then .next { s with seq := .assert (f + 1) } else .next (endCommand .ok s)

/-- `Q_WAIT_RELEASE(f)` on the answer (rule R104). -/
def releaseAnswered (f : Nat) (a : Answer) (s : State) : Result :=
  nextFrame f { s with selState := selStateAfter .deassert a, err := errAfterRelease s.err a }

/-- What the block does with the answer to its outstanding request (rules R101 to R104). -/
def blockAnswer (a : Answer) (s : State) : Result :=
  match s.seq with
  | .waitAssert f => .next (assertAnswered f a s)
  | .waitByte f t h => .next (byteAnswered f t h a s)
  | .waitRelease f => releaseAnswered f a s
  | .idle => .next s
  | .assert _ => .next s
  | .byte _ _ _ => .next s
  | .release _ => .next s

/-- The oldest request of a list that goes to collaborator `c`, and the list without it. -/
def takeOldest (c : Collaborator) : List Request → Option (Request × List Request)
  | [] => none
  | r :: rs => if requestedOf r = c then some (r, rs) else (takeOldest c rs).map (fun q => (q.1, r :: q.2))

/-- A collaborator answers the oldest request it owes an answer to (rules R13, R176 (a) (b), R177; log entry 10). The
answer to an abandoned request acts outside the block only and is discarded (rule R191); a collaborator that owes none
has nothing to answer. -/
def answerStep (c : Collaborator) (a : Answer) (s : State) : Result :=
  match takeOldest c s.abandoned with
  | some (r, others) => lateAnswer r a { s with abandoned := others }
  | none =>
    match s.outstanding with
    | some r =>
      if requestedOf r = c then andThen (environmentAnswer r a (takeAnswer a s)) (blockAnswer a) else .next s
    | none => .next s

end Sys2Proof.Machine
end

