-- ==== Sys2Proof/Machine/Turns.lean ====
section
/-! DEFINITION. Whose turn it is (rule R13): the schedule's next turn, and what happens where it gives none; and how an
instruction is put where the next step runs it. -/

namespace Sys2Proof.Machine

/-- The turn the schedule gives (log entry 1). A turn of an agent that is not enabled passes. -/
def takeTurn (t : Turn) (s : State) : Result :=
  match t with
  | .host a => hostStep a s
  | .sequencer => sequencerStep s
  | .answer c a => answerStep c a s

/-- The answer of draw `d`, a free value (rule R32, log entry 2). -/
def freeAnswer (d : Nat) : Answer :=
  match Config.freeAnswer d with
  | none => .ok
  | some e => .err e

/-- The collaborator that owes the oldest answer. -/
def owing (s : State) : Option Collaborator :=
  match s.abandoned with
  | r :: _ => some (requestedOf r)
  | [] => s.outstanding.map requestedOf

/-- Where the schedule gives no turn (log entries 1, 2): the sequencer moves if it can, else the collaborator that owes
the oldest answer gives a free one, else nothing happens: the host is silent and the block keeps all its state (rules R172, R181). -/
def freeTurn (s : State) : Result :=
  if sequencerEnabled s then sequencerStep s
  else
    match owing s with
    | some c => answerStep c (freeAnswer s.draws) { s with draws := s.draws + 1 }
    | none => .next s

/-- Put the block at rest, so that a `START` is accepted; a block that is not BUSY is left as it is. -/
def atRest (s : State) : State :=
  if s.mode = .busy then
    { s with mode := .idle, seq := .idle, outstanding := none, cancelPend := false, inFlight := none }
  else s

/-- The descriptor in its registers and `START` next (log entry 18). -/
def withDescriptor (w0 w1 w2 : Word32) (s : State) : State :=
  { atRest s with w0 := w0, w1 := w1, w2 := w2, schedule := .host .start :: s.schedule }

/-- A chain of one chip that holds the pair, and the deassert that latches it answered next, as an abandoned request,
so that the block takes no part (log entries 17, 18). -/
def withPair (w : BitVec 16) (s : State) : State :=
  { s with
    chain := { s.chain with chips := some 1, sr := [pairData w, pairReg w], frameOpen := true, cnt := 2, bad := false }
    abandoned := .sel .deassert :: s.abandoned
    schedule := .answer .seldrv .ok :: s.schedule }

/-- The words of an instruction put where the next step runs them. -/
def withWords (e : Encoded) (s : State) : State :=
  match e with
  | .descriptor d => withDescriptor d.w0 d.w1 d.w2 s
  | .pair w => withPair w s

end Sys2Proof.Machine
end

