-- ==== Sys2Proof/Machine/Step.lean ====
section
/-! DEFINITION. One step of the machine: the next turn. -/

namespace Sys2Proof.Machine

/-- One step (rule R13): the agent whose turn is next takes its step. -/
def step (s : State) : Host.Outcome State Fault Refusal :=
  match s.schedule with
  | t :: rest => takeTurn t { s with schedule := rest }
  | [] => freeTurn s

/-- `s` with the instruction of a table row's bits where `step` runs it next (log entries 17, 18, 19). -/
def State.withFetchWord (s : State) (nbits w : Nat) : State := withWords (tableWords nbits w) s

end Sys2Proof.Machine
end

