-- ==== Sys2Proof/Safety.lean ====
section
/-! DEFINITION. The terms claims are stated in: the invariant of every reachable state, the select discipline of rule
R108 over the trace, and the events and turns of a run in which nothing fails. -/

namespace Sys2Proof.Machine

/-- The parameters are in the ranges of rule R5, and the glyph cells are in canonical form. -/
structure ParamsValid (p : Params) : Prop where
  n_max_low : 1 ≤ p.nMax
  n_max_high : p.nMax ≤ 255
  buf_max_low : 8 ≤ p.bufMax
  buf_max_high : p.bufMax ≤ 65535
  glyph_wf : p.glyph.wf

/-- What acceptance checked of the running command still holds (rule R106), and it is one that sends frames. -/
def commandFits (n : Byte) (i : Instr) : Prop :=
  frameCount i ≠ none ∧
  (∀ line payload, i = .writeLine line payload → line.toNat ≤ 7 ∧ payload.length = n.toNat) ∧
  (∀ dev reg data, i = .writeDevice dev reg data → dev.toNat < n.toNat)

/-- The frame and slot of `SEQ` are ones of the running command (rules R24, R25). -/
def positionInRange (s : State) : Prop :=
  match s.seq with
  | .idle => True
  | .assert f => f < (framesInFlight s).getD 0
  | .waitAssert f => f < (framesInFlight s).getD 0
  | .byte f t _ => f < (framesInFlight s).getD 0 ∧ t < s.n.toNat
  | .waitByte f t _ => f < (framesInFlight s).getD 0 ∧ t < s.n.toNat
  | .release f => f < (framesInFlight s).getD 0
  | .waitRelease f => f < (framesInFlight s).getD 0

/-- Exactly the requests `SEQ` says are outstanding are (rules R16, R24). -/
def outstandingMatches (s : State) : Prop :=
  match s.seq with
  | .waitAssert _ => s.outstanding = some (.sel .assert)
  | .waitByte f t h => ∃ b, frameByte s f t h = some b ∧ s.outstanding = some (.tx b)
  | .waitRelease _ => s.outstanding = some (.sel .deassert)
  | .idle => s.outstanding = none
  | .assert _ => s.outstanding = none
  | .byte _ _ _ => s.outstanding = none
  | .release _ => s.outstanding = none

/-- No error is latched before the release step (rule R103, last sentence). -/
def noErrorInFrame (s : State) : Prop :=
  match s.seq with
  | .assert _ => s.err = none
  | .waitAssert _ => s.err = none
  | .byte _ _ _ => s.err = none
  | .waitByte _ _ _ => s.err = none
  | .release _ => True
  | .waitRelease _ => True
  | .idle => True

/-- The invariant: it holds after reset and every step keeps it. -/
structure State.Inv (s : State) : Prop where
  params_valid : ParamsValid s.params
  buf_wf : s.buf.wf
  buf_in_range : ∀ c ∈ s.buf, c.1 < s.params.bufMax
  creg_wf : s.chain.creg.wf
  busy_iff : s.mode = .busy ↔ s.seq ≠ .idle
  length_in_range : s.mode ≠ .unconfigured → 1 ≤ s.n.toNat ∧ s.n.toNat ≤ s.params.nMax
  in_flight_iff : s.inFlight ≠ none ↔ s.mode = .busy
  in_flight_fits : ∀ i, s.inFlight = some i → commandFits s.n i
  position : positionInRange s
  outstanding_matches : outstandingMatches s
  no_error_in_frame : noErrorInFrame s
  cancel_only_busy : s.cancelPend = true → s.mode = .busy
  sr_bounded : s.chain.sr.length ≤ 2 * chainLength s
  frame_known : s.chain.frameOpen = true → s.chain.bad = false → min s.chain.cnt (2 * chainLength s) ≤ s.chain.sr.length
  chain_unknown : s.mode = .unconfigured → s.chain.chips = none →
    s.chain.sr = [] ∧ s.chain.frameOpen = false ∧ s.abandoned = []
  stale_owed : s.chain.stale ≤ owedBytes s.abandoned
  stale_first : s.chain.stale ≠ 0 → s.chain.cnt = 0

/-! ### The select discipline (rule R108) -/

/-- Where a trace stands with respect to the select line; `k` counts the bytes of the frame that were answered `ok`. -/
inductive Bracket where
  | closed
  | asserting
  | inFrame (k : Nat)
  | sending (k : Nat)
  | failed (k : Nat)
  | releasing
deriving DecidableEq, Repr

/-- The events rule R108 allows next: bytes only after an assert answered `ok`, one release for every assert, `DONE` only
with no frame open, no byte after a failure. -/
def Bracket.after : Bracket → Event → Option Bracket
  | .closed, .sel .assert => some .asserting
  | .closed, .done _ => some .closed
  | .asserting, .answered .ok => some (.inFrame 0)
  | .asserting, .answered (.err _) => some (.failed 0)
  | .inFrame k, .tx _ => some (.sending k)
  | .inFrame _, .sel .deassert => some .releasing
  | .sending k, .answered .ok => some (.inFrame (k + 1))
  | .sending k, .answered (.err _) => some (.failed k)
  | .failed _, .sel .deassert => some .releasing
  | .releasing, .answered _ => some .closed
  | _, _ => none

/-- Where a trace leads from a bracket; `none` if it breaks the discipline. -/
def bracketAfter : Bracket → List Event → Option Bracket
  | b, [] => some b
  | b, e :: es => (b.after e).bind (fun b' => bracketAfter b' es)

/-- Which byte of a frame `SEQ` stands at, counting from 0: `2t + h` (rule R46). -/
def byteIndex (t : Nat) : Half → Nat
  | .register => 2 * t
  | .data => 2 * t + 1

/-- The bracket `SEQ` stands for; a frame released with no error latched has exactly 2·N bytes, any other at most 2·N. -/
def bracketMatches (s : State) (b : Bracket) : Prop :=
  match s.seq with
  | .idle => b = .closed
  | .assert _ => b = .closed
  | .waitAssert _ => b = .asserting
  | .byte _ t h => b = .inFrame (byteIndex t h)
  | .waitByte _ t h => b = .sending (byteIndex t h)
  | .release _ =>
    (s.err = none ∧ b = .inFrame (2 * s.n.toNat)) ∨
    (s.err ≠ none ∧ ∃ k, k ≤ 2 * s.n.toNat ∧ (b = .inFrame k ∨ b = .failed k))
  | .waitRelease _ => b = .releasing

/-- The trace so far keeps the select discipline and agrees with `SEQ`. -/
def Bracketed (s : State) : Prop := ∃ b, bracketAfter .closed s.trace = some b ∧ bracketMatches s b

/-- The next turn is a `RESET` while a command runs, the one way the block itself breaks the discipline (rule R191). -/
def resetsWhileBusy (s : State) : Prop := s.mode = .busy ∧ s.schedule.head? = some (.host .reset)

/-! ### A run in which nothing fails -/

/-- The events of one pair (rules R45, R100). -/
def pairEvents (p : Byte × Byte) : List Event := [.tx p.1, .answered .ok, .tx p.2, .answered .ok]

/-- The events of one frame (rules R76, R100). -/
def frameEvents (pairs : List (Byte × Byte)) : List Event :=
  [.sel .assert, .answered .ok] ++ pairs.flatMap pairEvents ++ [.sel .deassert, .answered .ok]

/-- The pairs of frame `f` of a command, slot 0 first (rules R46, R76, R100). -/
def framePairs (p : Params) (n : Nat) (i : Instr) (f : Nat) : List (Byte × Byte) :=
  (List.range n).filterMap (framePair (glyphRow p) n i f)

/-- The select and transfer events of a command of `count` frames that succeeds, frame 0 first (rules R100, R105). -/
def wireEvents (p : Params) (n : Nat) (i : Instr) (count : Nat) : List Event :=
  (List.range count).flatMap (fun f => frameEvents (framePairs p n i f))

/-- The events of a command that succeeds: its frames in order, then `DONE(OK)` (rules R100, R105). -/
def commandEvents (p : Params) (n : Nat) (i : Instr) (count : Nat) : List Event :=
  wireEvents p n i count ++ [.done .ok]

/-- `k` requests to one collaborator in a row: the sequencer issues one and it is answered `ok`. -/
def okTurns (c : Collaborator) : Nat → List Turn
  | 0 => []
  | k + 1 => .sequencer :: .answer c .ok :: okTurns c k

/-- The turns of one frame on `n` chips: the assert, `2·n` bytes, the deassert (rule R100). -/
def frameTurns (n : Nat) : List Turn := okTurns .seldrv 1 ++ (okTurns .xfer (2 * n) ++ okTurns .seldrv 1)

/-- The turns of `count` frames on `n` chips (rule R105). -/
def commandTurns (n : Nat) : Nat → List Turn
  | 0 => []
  | count + 1 => frameTurns n ++ commandTurns n count

/-- The requests of a command of `count` frames on `n` chips: `count` asserts, `count` deasserts and `2·n·count` bytes
(rule R209). -/
def requestCount (count n : Nat) : Nat := count * (2 * n + 2)

/-- A state about to assert for frame 0 of command `i`, with nothing latched, pending or abandoned, and no failure in the
turns to come. -/
structure ReadyToSend (s : State) (i : Instr) (count : Nat) (rest : List Turn) : Prop where
  inv : s.Inv
  position : s.seq = .assert 0
  command : s.inFlight = some i
  frames : frameCount i = some count
  not_cancelled : s.cancelPend = false
  none_abandoned : s.abandoned = []
  turns : s.schedule = commandTurns s.n.toNat count ++ rest

end Sys2Proof.Machine
end

