-- ==== Sys2Proof/WellFormed.lean ====
section
/-! DEFINITION. Which instructions the encodings can spell (rules R70, R73, R85): the bounds of the abstract command
type that its constructors do not carry themselves. -/

namespace Sys2Proof

/-- A sequence operand is `BUF[0..LEN-1]` with `LEN` 16 bits and at most `BUF_MAX` (rules R70, R73, R85 (d)). -/
abbrev Instr.sequenceFits (bufMax : Nat) (bytes : List Byte) : Prop :=
  bytes.length ≤ bufMax ∧ bytes.length < 2 ^ 16

/-- `x_pos` is a 32-bit two's complement integer (rules R73, R83). -/
abbrev Instr.xPosFits (x : Int) : Prop := -2 ^ 31 ≤ x ∧ x < 2 ^ 31

/-- The well-formed instructions on a block whose `BUF` holds `bufMax` bytes. The enumerated register of BCAST_CMD
and the 8 rows of ROTATE are carried by their types; ROTATE needs 8 bytes of `BUF`. -/
abbrev Instr.WellFormed (bufMax : Nat) (i : Instr) : Prop :=
  match i with
  | .configure _ => True
  | .bcastCmd _ _ => True
  | .clear => True
  | .bcastRaw _ _ => True
  | .writeLine _ payload => Instr.sequenceFits bufMax payload
  | .writeDevice _ _ _ => True
  | .renderText text xPos => Instr.sequenceFits bufMax text ∧ Instr.xPosFits xPos
  | .rotate _ => 8 ≤ bufMax
  | .pairNoop _ => True
  | .pairRow0 _ => True
  | .pairRow1 _ => True
  | .pairRow2 _ => True
  | .pairRow3 _ => True
  | .pairRow4 _ => True
  | .pairRow5 _ => True
  | .pairRow6 _ => True
  | .pairRow7 _ => True
  | .pairDecodeMode _ => True
  | .pairIntensity _ => True
  | .pairScanLimit _ => True
  | .pairOnOff _ => True
  | .pairDisplayTest _ => True

end Sys2Proof
end

