-- ==== Sys2Proof/Certificates/Slice0/Obligations.lean ====
section
/-! DEFINITION. The statements. Each says which rule of the spec it formalises; one that rests on a choice of the model
names the log entry. -/

section
open Sys2Proof
open Sys2Proof.Machine

/-! ### Encodings -/

/-- The words of section 2.1 of `95_test_vectors.md`, and two wire pairs of rule R80, decode to the instructions they
stand for. -/
def Obligations.SpecWordsDecode : Prop :=
  decodeTableWord 32 0x04000000 = some (.configure 4) ∧
  decodeTableWord 32 0x00070A01 = some (.bcastCmd .intensity 0x07) ∧
  decodeTableWord 32 0x00000002 = some .clear ∧
  decodeTableWord 32 0x00FF0D03 = some (.bcastRaw 0x0D 0xFF) ∧
  decodeTableWord 32 0x010F0A05 = some (.writeDevice 1 0x0A 0x0F) ∧
  decode 65535 (.descriptor ⟨0x03000004, 0x00000002, 0, [0xAA, 0x55]⟩) = .ok (.writeLine 3 [0xAA, 0x55]) ∧
  decode 65535 (.descriptor ⟨0x00000006, 0x00000002, 0xFFFFFFFD, [0x41, 0x42]⟩) =
    .ok (.renderText [0x41, 0x42] (-3)) ∧
  decode 65535 (.descriptor ⟨0x00000007, 0x00000008, 0, [1, 0, 0, 0, 0, 0, 0, 0]⟩) =
    .ok (.rotate ⟨1, 0, 0, 0, 0, 0, 0, 0⟩) ∧
  decodeTableWord 16 0x0455 = some (.pairRow3 0x55) ∧
  decodeTableWord 16 0x0F01 = some (.pairDisplayTest 0x01)

/-- Decoding an encoded instruction gives it back, for every instruction the encodings can spell, whatever bytes of
`BUF` lie beyond the operand (rules R70 to R75, R80). -/
def Obligations.DecodeInvertsEncode : Prop :=
  ∀ (bufMax : Nat) (i : Instr), i.WellFormed bufMax → decode bufMax (encode i) = .ok i

/-- A pair that decodes is the encoding of what it decodes to: no two pairs decode to one instruction (rules R75, R80). -/
def Obligations.EncodeInvertsPairDecode : Prop :=
  ∀ (w : BitVec 16) (i : Instr), decodePair w = .ok i → encode i = .pair w

/-- Two descriptors that differ only in fields the command does not read, in the reserved half of `W1`, or in bytes of
`BUF` at `LEN` and above decode alike (rules R71, R74). -/
def Obligations.UnreadFieldsAreIgnored : Prop :=
  ∀ (bufMax : Nat) (buf buf' : Nat → Byte) (w0 w0' w1 w1' w2 w2' : Word32),
    fieldOpc w0 = fieldOpc w0' →
    (fieldOpc w0 ∈ [0x01, 0x03, 0x05] → fieldA w0 = fieldA w0' ∧ fieldB w0 = fieldB w0') →
    (fieldOpc w0 ∈ [0x00, 0x04, 0x05] → fieldC w0 = fieldC w0') →
    (fieldOpc w0 ∈ [0x04, 0x06, 0x07] →
      fieldLen w1 = fieldLen w1' ∧ ∀ a, a < fieldLen w1 → buf a = buf' a) →
    (fieldOpc w0 = 0x06 → w2 = w2') →
    decodeDescriptor bufMax buf w0 w1 w2 = decodeDescriptor bufMax buf' w0' w1' w2'

/-- The `Register` enumeration is one-to-one with the codes 0x00 to 0x0C and 0x0F (rule R81). -/
def Obligations.RegisterCodesAreOneToOne : Prop :=
  (∀ r : Register, Register.ofCode r.code = some r) ∧
  (∀ b : Byte, (∃ r, Register.ofCode b = some r ∧ r.code = b) ↔ (b.toNat ≤ 0x0C ∨ b = 0x0F))

/-- Exactly the four cases of rule R85 are illegal, and `START` with such a descriptor sends nothing and ends with
`DONE(IllegalCommand)`, whatever the mode but BUSY. -/
def Obligations.IllegalDescriptorsEndIllegalCommand : Prop :=
  ∀ (s : State) (rest : List Turn), s.schedule = .host .start :: rest → s.mode ≠ .busy →
    let len := fieldLen s.w1
    let illegal :=
      0x08 ≤ (fieldOpc s.w0).toNat ∨
      (fieldOpc s.w0 = 0x01 ∧
        (fieldA s.w0 = 0x0D ∨ fieldA s.w0 = 0x0E ∨ 0x10 ≤ (fieldA s.w0).toNat)) ∨
      (fieldOpc s.w0 = 0x07 ∧ len ≠ 8) ∨
      (fieldOpc s.w0 ∈ [0x04, 0x06, 0x07] ∧ s.params.bufMax < len)
    ((∃ e, fetchCommand s = .error e) ↔ illegal) ∧
    (illegal → ∃ t, step s = .next t ∧ t.status = .illegalCommand ∧
      t.trace = s.trace ++ [.done .illegalCommand] ∧ t.outstanding = s.outstanding ∧
      t.mode = s.mode ∧ t.n = s.n ∧ t.res = s.res ∧ t.buf = s.buf ∧ t.errInfo = s.errInfo ∧
      t.selState = s.selState ∧ t.line = s.line ∧ t.chain = s.chain)

/-! ### A step runs the decoded instruction -/

/-- `START` on a block that is not BUSY, whose descriptor decodes to `i`, runs `i`: the turn is taken, `ERR` is cleared
(rule R106) and the draw counter of the free bytes of `BUF` advances (the model's, log entry 4). -/
def Obligations.StartRunsDecodedCommand : Prop :=
  ∀ (s : State) (rest : List Turn) (i : Instr),
    s.schedule = .host .start :: rest → s.mode ≠ .busy →
    decodeDescriptor s.params.bufMax (bufByte s) s.w0 s.w1 s.w2 = .ok i →
    step s = exec i { s with schedule := rest, err := none, draws := s.draws + 1 }

/-- The latch of a complete frame by a chain of one chip runs the pair that chip holds: the line is deasserted, the frame
is closed, and that chip is named (rules R56, R58; how a lone pair is put there is the model's, log entry 17). -/
def Obligations.LatchRunsDecodedPair : Prop :=
  ∀ (s : State) (rest : List Turn) (others : List Request) (reg data : Byte) (i : Instr),
    s.schedule = .answer .seldrv .ok :: rest → s.abandoned = .sel .deassert :: others →
    s.chain.chips = some 1 → s.chain.frameOpen = true → s.chain.bad = false → s.chain.cnt = 2 →
    s.chain.sr = [data, reg] → decodePair (packPair reg data) = .ok i →
    step s = exec i { s with
      schedule := rest, abandoned := others, line := some .deassert
      chain := { s.chain with frameOpen := false, latchPos := 0 } }

/-! ### The command port -/

/-- Writes and `START` are not accepted while BUSY and have no effect; otherwise a write sets its register or byte and
nothing else (rules R15, R21, R22). Beyond the end of `BUF` the model stops (log entry 15). -/
def Obligations.PortWritesAreLockedWhileBusy : Prop :=
  ∀ (s : State) (rest : List Turn) (v : Word32) (a : Nat) (b : Byte),
    let s' := { s with schedule := rest }
    (s.mode = .busy → ∀ act, act ∈ [HostAction.writeW0 v, .writeW1 v, .writeW2 v, .writeBuf a b, .start] →
      s.schedule = .host act :: rest → step s = .next s') ∧
    (s.mode ≠ .busy → s.schedule = .host (.writeW0 v) :: rest → step s = .next { s' with w0 := v }) ∧
    (s.mode ≠ .busy → s.schedule = .host (.writeW1 v) :: rest → step s = .next { s' with w1 := v }) ∧
    (s.mode ≠ .busy → s.schedule = .host (.writeW2 v) :: rest → step s = .next { s' with w2 := v }) ∧
    (s.mode ≠ .busy → s.schedule = .host (.writeBuf a b) :: rest → a < s.params.bufMax →
      ∃ t, step s = .next t ∧ t = { s' with buf := t.buf } ∧
        ∀ x, t.buf.read x = if x = a then some b else s.buf.read x) ∧
    (s.mode ≠ .busy → s.schedule = .host (.writeBuf a b) :: rest → s.params.bufMax ≤ a →
      step s = .fault (.noSuchBufByte a))

/-- A read at the port returns the register and changes nothing else (rule R15): the codes of rules R19, R29 and R160. -/
def Obligations.PortReadsHaveNoSideEffect : Prop :=
  ∀ (s : State) (rest : List Turn) (r : PortReg), s.schedule = .host (.read r) :: rest →
    ∃ v, step s = .next { s with schedule := rest, portData := some v } ∧
      match r with
      | .status => v = .status (match s.status with
          | .ok => 0 | .transportError => 1 | .signalError => 2 | .invalidLineIndex => 3
          | .invalidPayloadLength => 4 | .invalidDeviceIndex => 5 | .configError => 6
          | .illegalCommand => 7 | .cancelled => 8)
      | .errInfo => v = .errInfo s.errInfo
      | .selState => v = .selState (match s.selState with | .deasserted => 0 | .asserted => 1 | .unknown => 2)
      | .mode => v = .mode (match s.mode with | .unconfigured => 0 | .idle => 1 | .busy => 2)
      | .n => v = .n s.n
      | .res a => ∃ b, v = .res b ∧ ∀ j : Fin 8, b.getLsbD j.val = matrixBit s.res a j

/-- `CANCEL` sets `CANCEL_PEND` only while BUSY and does nothing else (rule R30, first sentence). -/
def Obligations.CancelPendsOnlyWhileBusy : Prop :=
  ∀ (s : State) (rest : List Turn), s.schedule = .host .cancel :: rest →
    (s.mode = .busy → step s = .next { s with schedule := rest, cancelPend := true }) ∧
    (s.mode ≠ .busy → step s = .next { s with schedule := rest })

/-- `RESET`, in any mode, puts the block's state at the values of rule R33 that the spec gives, each byte of `BUF` counting
as not written, and issues no `SelSet`, no `Tx` and no `DONE`; the line and the chips stay as they are (rules R190,
R192). -/
def Obligations.ResetSetsBlockState : Prop :=
  ∀ (s : State) (rest : List Turn), s.schedule = .host .reset :: rest →
    ∃ t, step s = .next t ∧ t.mode = .unconfigured ∧ t.status = .ok ∧ t.selState = .deasserted ∧
      t.cancelPend = false ∧ t.seq = .idle ∧ t.err = none ∧ t.outstanding = none ∧ (∀ a, t.buf.read a = none) ∧
      t.trace = s.trace ∧ t.line = s.line ∧ t.chain.sr = s.chain.sr ∧ t.chain.creg = s.chain.creg ∧
      t.chain.frameOpen = s.chain.frameOpen ∧ t.chain.cnt = s.chain.cnt ∧ t.chain.bad = s.chain.bad ∧
      t.params = s.params

/-- The state after reset has the values of rule R33 that the spec gives, and no chip register is determinate (rule
R192). The values the spec leaves open are the model's (log entry 3) and are not stated. -/
def Obligations.ResetStateIsAsTabled : Prop :=
  State.reset.mode = .unconfigured ∧ State.reset.status = .ok ∧ State.reset.selState = .deasserted ∧
  State.reset.cancelPend = false ∧ State.reset.seq = .idle ∧ State.reset.err = none ∧
  State.reset.outstanding = none ∧ (∀ a, State.reset.buf.read a = none) ∧ State.reset.trace = [] ∧
  State.reset.chain.frameOpen = false ∧ State.reset.chain.cnt = 0 ∧ State.reset.chain.bad = false ∧
  (∀ p code, chipCell State.reset p code = none)

/-- The electrical level of the line (rules R5, R17): `SEL_ASSERT_LEVEL` where the line is asserted, the other level where
it is deasserted, unknown after a failed select request. -/
def Obligations.SelectLineLevels : Prop :=
  ∀ (s : State) (l : Sel) (a : Answer),
    lineLevel (driveLine l a s) =
      match a, l, s.params.selAssertLevel with
      | .err _, _, _ => none
      | .ok, .assert, level => some level
      | .ok, .deassert, .low => some .high
      | .ok, .deassert, .high => some .low

/-! ### The commands -/

/-- CONFIGURE(n) on an unconfigured block with 1 ≤ n ≤ N_MAX sets `N`, `MODE` = IDLE and ends with OK; with any other n, or
on a configured block, it ends with ConfigError and leaves `N` and `MODE`. It sends nothing and changes nothing else
(rules R106, R110). -/
def Obligations.ConfigureSetsLengthOnce : Prop :=
  ∀ (n : Byte) (s : State),
    (s.mode = .unconfigured → 1 ≤ n.toNat → n.toNat ≤ s.params.nMax →
      exec (.configure n) s = .next { s with
        n := n, mode := .idle, status := .ok, cancelPend := false, seq := .idle, inFlight := none
        trace := s.trace ++ [.done .ok] }) ∧
    ((s.mode = .idle ∨ (s.mode = .unconfigured ∧ (n.toNat < 1 ∨ s.params.nMax < n.toNat))) →
      exec (.configure n) s = .next { s with
        status := .configError, cancelPend := false, seq := .idle, inFlight := none
        trace := s.trace ++ [.done .configError] })

/-- BCAST_CMD, CLEAR, BCAST_RAW and RENDER_TEXT on an idle block begin their frames, whatever their operands; on an
unconfigured block they end with ConfigError and send nothing. Nothing else changes (rules R106, R111, R112, R113,
R134, R136). -/
def Obligations.UncheckedCommandsBegin : Prop :=
  ∀ (s : State) (i : Instr) (reg : Register) (code data : Byte) (text : List Byte) (x : Int),
    i ∈ [Instr.bcastCmd reg data, .clear, .bcastRaw code data, .renderText text x] →
    (s.mode = .idle → exec i s = .next { s with mode := .busy, seq := .assert 0, inFlight := some i }) ∧
    (s.mode = .unconfigured → exec i s = .next { s with
      status := .configError, cancelPend := false, seq := .idle, inFlight := none
      trace := s.trace ++ [.done .configError] })

/-- WRITE_LINE on an idle block: a line above 7 ends with InvalidLineIndex, else a payload not of length `N` ends with
InvalidPayloadLength, both with nothing sent; otherwise its frame begins. Nothing else changes (rules R106, R114, R163,
R164, R167). -/
def Obligations.WriteLineChecksThenBegins : Prop :=
  ∀ (s : State) (line : Byte) (payload : List Byte),
    let rejected (c : Completion) (st : Status) : Result := .next { s with
      status := st, cancelPend := false, seq := .idle, inFlight := none, trace := s.trace ++ [.done c] }
    (s.mode = .unconfigured → exec (.writeLine line payload) s = rejected .configError .configError) ∧
    (s.mode = .idle → 8 ≤ line.toNat →
      exec (.writeLine line payload) s = rejected .invalidLineIndex .invalidLineIndex) ∧
    (s.mode = .idle → line.toNat < 8 → payload.length ≠ s.n.toNat →
      exec (.writeLine line payload) s = rejected .invalidPayloadLength .invalidPayloadLength) ∧
    (s.mode = .idle → line.toNat < 8 → payload.length = s.n.toNat →
      exec (.writeLine line payload) s =
        .next { s with mode := .busy, seq := .assert 0, inFlight := some (.writeLine line payload) })

/-- WRITE_DEVICE on an idle block: `dev` ≥ `N` ends with InvalidDeviceIndex and nothing sent; otherwise its frame begins,
whatever the register byte. Nothing else changes (rules R106, R115). -/
def Obligations.WriteDeviceChecksThenBegins : Prop :=
  ∀ (s : State) (dev reg data : Byte),
    let rejected (c : Completion) (st : Status) : Result := .next { s with
      status := st, cancelPend := false, seq := .idle, inFlight := none, trace := s.trace ++ [.done c] }
    (s.mode = .unconfigured → exec (.writeDevice dev reg data) s = rejected .configError .configError) ∧
    (s.mode = .idle → s.n.toNat ≤ dev.toNat →
      exec (.writeDevice dev reg data) s = rejected .invalidDeviceIndex .invalidDeviceIndex) ∧
    (s.mode = .idle → dev.toNat < s.n.toNat →
      exec (.writeDevice dev reg data) s =
        .next { s with mode := .busy, seq := .assert 0, inFlight := some (.writeDevice dev reg data) })

/-- ROTATE, configured or not, puts pixel (b, 7 - a) of the matrix at pixel (a, b) of `RES` and ends with OK; it leaves
`MODE` and everything else (rules R106, R151). -/
def Obligations.RotateWritesResult : Prop :=
  ∀ (s : State) (m : Matrix8), s.mode ≠ .busy →
    ∃ t, exec (.rotate m) s = .next t ∧
      (∀ a b : Fin 8, matrixBit t.res a b = matrixBit m b ⟨7 - a.val, by omega⟩) ∧
      t = { s with
        res := t.res, status := .ok, cancelPend := false, seq := .idle, inFlight := none
        trace := s.trace ++ [.done .ok] }

/-- A chip that latches a row or control pair stores its byte in that register; every other cell of every chip, and
everything else, stays (rule R58). -/
def Obligations.StoringPairsWriteOneCell : Prop :=
  ∀ (s : State) (data : Byte) (i : Instr) (code : Byte),
    (i, code) ∈ [
      (Instr.pairRow0 data, (0x01 : Byte)), (.pairRow1 data, 0x02), (.pairRow2 data, 0x03), (.pairRow3 data, 0x04),
      (.pairRow4 data, 0x05), (.pairRow5 data, 0x06), (.pairRow6 data, 0x07), (.pairRow7 data, 0x08),
      (.pairDecodeMode data, 0x09), (.pairIntensity data, 0x0A), (.pairScanLimit data, 0x0B),
      (.pairOnOff data, 0x0C), (.pairDisplayTest data, 0x0F)] →
    ∃ t, exec i s = .next t ∧ t = { s with chain := { s.chain with creg := t.chain.creg } } ∧
      chipCell t s.chain.latchPos code = some data ∧
      ∀ p c, ¬(p = s.chain.latchPos ∧ c = code) → chipCell t p c = chipCell s p c

/-- A chip that latches the pair (0x00, 0x00) changes nothing under `NOOP_HARMLESS`; where the platform does not promise
that of the pair it latches, every register of that chip becomes indeterminate and no other chip's (rules R58, R60;
the promise is a parameter, log entry 8). -/
def Obligations.NoopPairIsHarmlessOnlyAsPromised : Prop :=
  ∀ (s : State) (data : Byte),
    ((s.params.noop = .anyData ∨ (s.params.noop = .zeroData ∧ data = 0)) → exec (.pairNoop data) s = .next s) ∧
    ((s.params.noop = .nothing ∨ (s.params.noop = .zeroData ∧ data ≠ 0)) →
      ∃ t, exec (.pairNoop data) s = .next t ∧ t = { s with chain := { s.chain with creg := t.chain.creg } } ∧
        ∀ p c, chipCell t p c = if p = s.chain.latchPos then none else chipCell s p c)

/-! ### The end of a command -/

/-- `End(s, e)` (rule R166): STATUS, ERRINFO for codes 1 and 2 only, CANCEL_PEND, SEQ, MODE, one `DONE`, and nothing else
(that the command is no longer in flight is the model's, log entry 12). -/
def Obligations.EndOfCommandStep : Prop :=
  ∀ (s : State) (c : Completion),
    endCommand c s = { s with
      status := (match c with
        | .ok => .ok | .transportError _ => .transportError | .signalError _ => .signalError
        | .invalidLineIndex => .invalidLineIndex | .invalidPayloadLength => .invalidPayloadLength
        | .invalidDeviceIndex => .invalidDeviceIndex | .configError => .configError
        | .illegalCommand => .illegalCommand | .cancelled => .cancelled)
      errInfo := (match c with
        | .transportError e => .transport e | .signalError e => .signal e | _ => s.errInfo)
      cancelPend := false
      seq := .idle
      mode := if s.mode = .busy then .idle else s.mode
      inFlight := none
      trace := s.trace ++ [.done c] }

/-! ### The sequencer -/

/-- The assert step (rule R101): a pending cancel ends the command with no request; otherwise the assert is issued. On
the answer, `ok` goes to the first byte and `err(e)` to the release. (The answer turn is the block's own where the
collaborator owes no answer to an abandoned request, log entry 10; so too in the next two statements. `stale` is the
model's own, log entry 30.) -/
def Obligations.AssertStep : Prop :=
  ∀ (s : State) (f : Nat) (rest : List Turn), s.err = none →
    (s.schedule = .sequencer :: rest → s.seq = .assert f → s.mode = .busy → s.cancelPend = true →
      step s = .next { s with
        schedule := rest, err := some .cancelled, status := .cancelled, cancelPend := false, seq := .idle
        mode := .idle, inFlight := none, trace := s.trace ++ [.done .cancelled] }) ∧
    (s.schedule = .sequencer :: rest → s.seq = .assert f → s.cancelPend = false →
      step s = .next { s with
        schedule := rest, outstanding := some (.sel .assert), seq := .waitAssert f
        trace := s.trace ++ [.sel .assert] }) ∧
    (s.schedule = .answer .seldrv .ok :: rest → s.seq = .waitAssert f →
      (∀ q ∈ s.abandoned, requestedOf q ≠ .seldrv) → s.outstanding = some (.sel .assert) →
      step s = .next { s with
        schedule := rest, outstanding := none, selState := .asserted, seq := .byte f 0 .register
        line := some .assert
        chain := { s.chain with frameOpen := true, cnt := 0, bad := false, stale := owedBytes s.abandoned }
        trace := s.trace ++ [.answered .ok] }) ∧
    (∀ e, s.schedule = .answer .seldrv (.err e) :: rest → s.seq = .waitAssert f →
      (∀ q ∈ s.abandoned, requestedOf q ≠ .seldrv) → s.outstanding = some (.sel .assert) →
      step s = .next { s with
        schedule := rest, outstanding := none, selState := .unknown, err := some (.signalError e), seq := .release f
        line := none, chain := { s.chain with frameOpen := true, bad := true }
        trace := s.trace ++ [.answered (.err e)] })

/-- The byte steps and a failure inside a frame (rules R102, R103): a pending cancel goes to the release; otherwise
`byte(f, t, h)` of the running command is transmitted; `ok` goes to the next byte, the last to the release; `err(e)`
latches TransportError and goes to the release. -/
def Obligations.ByteSteps : Prop :=
  ∀ (s : State) (f t : Nat) (h : Half) (rest : List Turn), s.err = none →
    (s.schedule = .sequencer :: rest → s.seq = .byte f t h → s.cancelPend = true →
      step s = .next { s with schedule := rest, err := some .cancelled, seq := .release f }) ∧
    (∀ i reg data, s.schedule = .sequencer :: rest → s.seq = .byte f t h → s.cancelPend = false →
      s.inFlight = some i → framePair (glyphRow s.params) s.n.toNat i f t = some (reg, data) →
      let b := match h with | .register => reg | .data => data
      step s = .next { s with
        schedule := rest, outstanding := some (.tx b), seq := .waitByte f t h, trace := s.trace ++ [.tx b] }) ∧
    (∀ a b, s.schedule = .answer .xfer a :: rest → s.seq = .waitByte f t h →
      (∀ q ∈ s.abandoned, requestedOf q ≠ .xfer) → s.outstanding = some (.tx b) →
      ∃ u, step s = .next u ∧
        u = { s with
          schedule := rest, outstanding := none, trace := s.trace ++ [.answered a], chain := u.chain
          seq := u.seq, err := u.err } ∧
        match a with
        | .ok => u.err = none ∧
            ((h = .register ∧ u.seq = .byte f t .data) ∨
             (h = .data ∧ t + 1 < s.n.toNat ∧ u.seq = .byte f (t + 1) .register) ∨
             (h = .data ∧ s.n.toNat ≤ t + 1 ∧ u.seq = .release f))
        | .err e => u.err = some (.transportError e) ∧ u.seq = .release f)

/-- The release step (rule R104): the deassert is issued whatever is pending or latched; on the answer `SEL_STATE` is
recorded, a failed release is latched only as a first error, and the command ends with the first error (its value in
`ERRINFO` where it carries one), goes to the next frame, or ends with OK. -/
def Obligations.ReleaseStep : Prop :=
  ∀ (s : State) (f : Nat) (rest : List Turn),
    (s.schedule = .sequencer :: rest → s.seq = .release f →
      step s = .next { s with
        schedule := rest, outstanding := some (.sel .deassert), seq := .waitRelease f
        trace := s.trace ++ [.sel .deassert] }) ∧
    (∀ a i count, s.schedule = .answer .seldrv a :: rest → s.seq = .waitRelease f →
      (∀ q ∈ s.abandoned, requestedOf q ≠ .seldrv) → s.outstanding = some (.sel .deassert) → s.mode = .busy → s.inFlight = some i → frameCount i = some count →
      ∃ t first, step s = .next t ∧
        t.selState = (match a with | .ok => .deasserted | .err _ => .unknown) ∧ t.outstanding = none ∧
        first = (match s.err, a with
          | some c, _ => some c | none, .ok => none | none, .err e => some (.signalError e)) ∧
        t.err = first ∧
        t.errInfo = (match first with
          | some (.transportError e) => .transport e | some (.signalError e) => .signal e | _ => s.errInfo) ∧
        match first with
        | some c => t.trace = s.trace ++ [.answered a, .done c] ∧ t.seq = .idle ∧ t.mode = .idle ∧
            t.status = completionStatus c ∧ t.cancelPend = false ∧ t.inFlight = none
        | none =>
          if f + 1 < count then
            t.trace = s.trace ++ [.answered a] ∧ t.seq = .assert (f + 1) ∧ t.mode = .busy ∧ t.status = s.status ∧
              t.cancelPend = s.cancelPend ∧ t.inFlight = some i
          else
            t.trace = s.trace ++ [.answered a, .done .ok] ∧ t.seq = .idle ∧ t.mode = .idle ∧ t.status = .ok ∧
              t.cancelPend = false ∧ t.inFlight = none)

/-- The pairs of each frame-sending command, as its rule gives them (rules R111, R112, R113, R114, R115, R136). -/
def Obligations.CommandPairs : Prop :=
  ∀ (g : Byte → Nat → Byte) (n f t : Nat),
    (∀ r d, framePair g n (.bcastCmd r d) f t = some (r.code, d)) ∧
    (f < 8 → framePair g n .clear f t = some (BitVec.ofNat 8 (f + 1), 0x00)) ∧
    (∀ c d, framePair g n (.bcastRaw c d) f t = some (c, d)) ∧
    (∀ line payload d, payload[t]? = some d →
      framePair g n (.writeLine line payload) f t = some (line + 1, d)) ∧
    (∀ dev c d, t < n → dev.toNat < n →
      framePair g n (.writeDevice dev c d) f t = some (if t = n - 1 - dev.toNat then (c, d) else (0x00, 0x00))) ∧
    (∀ text x, f < 8 →
      framePair g n (.renderText text x) f t = some (BitVec.ofNat 8 (f + 1), compose g n text x t f))

/-- Commands that are the same on the wire as others (rule R89), in a run in which nothing fails. -/
def Obligations.CommandsExpand : Prop :=
  ∀ (p : Params) (n : Nat),
    (∀ r d, wireEvents p n (.bcastCmd r d) 1 = wireEvents p n (.bcastRaw r.code d) 1) ∧
    (∀ c d : Byte, 1 ≤ c.toNat → c.toNat ≤ 8 →
      wireEvents p n (.bcastRaw c d) 1 = wireEvents p n (.writeLine (c - 1) (List.replicate n d)) 1) ∧
    (wireEvents p n .clear 8 =
      (List.range 8).flatMap (fun f => wireEvents p n (.bcastRaw (BitVec.ofNat 8 (f + 1)) 0x00) 1)) ∧
    (∀ c d, wireEvents p 1 (.writeDevice 0 c d) 1 = wireEvents p 1 (.bcastRaw c d) 1) ∧
    (∀ text x, wireEvents p n (.renderText text x) 8 =
      (List.range 8).flatMap (fun r => wireEvents p n
        (.writeLine (BitVec.ofNat 8 r) ((List.range n).map (fun d => compose (glyphRow p) n text x d r))) 1))

/-! ### The compositor -/

/-- The RenderWindow (rule R131): `x_pos = 8·char_base + shift` with `shift` in -7..7, zero or of the sign of `x_pos`; and
the rule's examples. -/
def Obligations.RenderWindowSplits : Prop :=
  (∀ x : Int, x = 8 * charBase x + charShift x ∧ -7 ≤ charShift x ∧ charShift x ≤ 7 ∧
    (0 < charShift x → 0 < x) ∧ (charShift x < 0 → x < 0)) ∧
  [(0, 0, 0), (1, 0, 1), (7, 0, 7), (8, 1, 0), (9, 1, 1), (-1, 0, -1), (-7, 0, -7), (-8, -1, 0), (-9, -1, -1),
   (-17, -2, -1), (2147483647, 268435455, 7), (-2147483648, -268435456, 0)].all
    (fun e : Int × Int × Int => charBase e.1 == e.2.1 && charShift e.1 == e.2.2) = true

/-- The three glyph rows (rule R133): inside the text the character's, elsewhere, the index `L` included, the sentinel's. -/
def Obligations.RowsOutsideTextAreSentinel : Prop :=
  ∀ (g : Byte → Nat → Byte) (text : List Byte) (r : Nat) (i : Int),
    (∀ k : Nat, ∀ hk : k < text.length, i = k → textRow g text r i = g text[k] r) ∧
    ((i < 0 ∨ (text.length : Int) ≤ i) → textRow g text r i = g 0 r)

/-- The composed byte (rules R7, R132, R135), in the arithmetic of bytes as integers; and the two operands of each blend
have no bit in common, so that exclusive or and addition give the same byte; every shift amount is 1 to 7. -/
def Obligations.ComposeBlendsNeighbours : Prop :=
  ∀ (g : Byte → Nat → Byte) (n : Nat) (text : List Byte) (x : Int) (d r k : Nat),
    let idx : Int := (n : Int) - d - 1 - charBase x
    let middle := (textRow g text r idx).toNat
    let left := (textRow g text r (idx - 1)).toNat
    let right := (textRow g text r (idx + 1)).toNat
    let byte := (compose g n text x d r).toNat
    (charShift x = 0 → byte = middle) ∧
    (charShift x = -(k : Int) → 1 ≤ k →
      k ≤ 7 ∧
      byte = (middle / 2 ^ k) ||| (right * 2 ^ (8 - k) % 256) ∧
      byte = (middle / 2 ^ k) ^^^ (right * 2 ^ (8 - k) % 256) ∧
      byte = middle / 2 ^ k + right * 2 ^ (8 - k) % 256) ∧
    (charShift x = (k : Int) → 1 ≤ k →
      k ≤ 7 ∧
      byte = (middle * 2 ^ k % 256) ||| (left / 2 ^ (8 - k)) ∧
      byte = (middle * 2 ^ k % 256) ^^^ (left / 2 ^ (8 - k)) ∧
      byte = middle * 2 ^ k % 256 + left / 2 ^ (8 - k))

/-- The closed form (rule R139): bit `j` of the byte of slot `d` is the pixel of the text's row at column
`u - x_pos` with `u = 8·(N-1-d) + j`, floor and mod toward minus infinity, the sentinel's row outside the text. -/
def Obligations.ComposeClosedForm : Prop :=
  ∀ (g : Byte → Nat → Byte) (n : Nat) (text : List Byte) (x : Int) (d r j : Nat),
    1 ≤ n → d < n → r < 8 → j < 8 →
    let v : Int := 8 * ((n : Int) - 1 - d) + j - x
    let row (i : Int) : Byte := if 0 ≤ i ∧ i < text.length then g (text.getD i.toNat 0) r else g 0 r
    (compose g n text x d r).getLsbD j = (row (v.fdiv 8)).getLsbD (v.fmod 8).toNat

/-- The index arithmetic of the compositor stays inside a 32-bit signed register (rule R138 (a)). -/
def Obligations.IndexArithmeticFits : Prop :=
  ∀ (x : Int) (n d : Nat), -2 ^ 31 ≤ x → x < 2 ^ 31 → n ≤ 255 → d < n →
    -2 ^ 28 ≤ charBase x ∧ charBase x ≤ 2 ^ 28 - 1 ∧
    -2 ^ 28 + 1 ≤ charIndex n d x ∧ charIndex n d x ≤ 2 ^ 28 + 254

/-! ### The rotator -/

/-- The laws of `rot` (rule R152): four quarter turns are the identity; two reverse the bits of the rows in reverse order;
it is the transposition followed by the reversal of the rows; and the source's two examples. -/
def Obligations.RotationLaws : Prop :=
  (∀ m, rot (rot (rot (rot m))) = m) ∧
  (∀ m, ∀ i j : Fin 8, matrixBit (rot (rot m)) ⟨7 - i.val, by omega⟩ j = matrixBit m i ⟨7 - j.val, by omega⟩) ∧
  (∀ m, ∀ i j : Fin 8, matrixBit (rot m) ⟨7 - j.val, by omega⟩ i = matrixBit m i j) ∧
  rot ⟨0, 0, 0, 0, 0, 0, 0, 0⟩ = ⟨0, 0, 0, 0, 0, 0, 0, 0⟩ ∧
  rot ⟨1, 0, 0, 0, 0, 0, 0, 0⟩ = ⟨0, 0, 0, 0, 0, 0, 0, 1⟩

/-! ### The chips -/

/-- What each answered request does to the chips and the line (rules R17, R56), but for the latch. That the shift
registers are indeterminate after a failed byte is the model's (log entry 28), and so is the field `stale` (log entry
30). -/
def Obligations.ChainSteps : Prop :=
  ∀ (s : State) (b : Byte) (e : Nat),
    environmentAnswer (.sel .assert) .ok s = .next { s with
      line := some .assert
      chain := { s.chain with frameOpen := true, cnt := 0, bad := false, stale := owedBytes s.abandoned } } ∧
    environmentAnswer (.sel .assert) (.err e) s = .next { s with
      line := none, chain := { s.chain with frameOpen := true, bad := true } } ∧
    (s.chain.frameOpen = true →
      environmentAnswer (.tx b) .ok s = .next { s with
        chain := { s.chain with sr := (b :: s.chain.sr).take (2 * chainLength s), cnt := s.chain.cnt + 1 } } ∧
      environmentAnswer (.tx b) (.err e) s = .next { s with chain := { s.chain with sr := [], bad := true } }) ∧
    environmentAnswer (.sel .deassert) (.err e) s = .next { s with
      line := none, chain := { s.chain with sr := [], creg := [], bad := true } } ∧
    (s.chain.frameOpen = true → (s.chain.bad = true ∨ s.chain.cnt ≠ 2 * chainLength s) →
      environmentAnswer (.sel .deassert) .ok s = .next { s with
        line := some .deassert, chain := { s.chain with sr := [], creg := [], frameOpen := false } })

/-- The latch of a complete frame (rule R58): every chip at once stores its data byte in the register its pair names; a
no-op pair as the platform promises; any other code makes that chip's registers indeterminate; no other cell changes,
and nothing else but the frame being closed. The model's choices in it: that (0x00, 0x00) makes its chip indeterminate
where nothing is promised (log entry 8), which chip was named last (log entry 17), and that the bytes are counted
against the chips really wired (log entries 7, 29). -/
def Obligations.CompleteFrameLatches : Prop :=
  ∀ (s : State), s.chain.frameOpen = true → s.chain.bad = false → s.chain.cnt = 2 * chainLength s →
    ∃ t, environmentAnswer (.sel .deassert) .ok s = .next t ∧
      t = { s with
        line := some .deassert
        chain := { s.chain with frameOpen := false, creg := t.chain.creg, latchPos := t.chain.latchPos } } ∧
      (∀ p code, chainLength s ≤ p → chipCell t p code = chipCell s p code) ∧
      ∀ p reg data, p < chainLength s → s.chain.sr[2 * p + 1]? = some reg → s.chain.sr[2 * p]? = some data →
        ((1 ≤ reg.toNat ∧ reg.toNat ≤ 0x0C ∨ reg = 0x0F) →
          ∀ code, chipCell t p code = if code = reg then some data else chipCell s p code) ∧
        (reg = 0 → (s.params.noop = .anyData ∨ (s.params.noop = .zeroData ∧ data = 0)) →
          ∀ code, chipCell t p code = chipCell s p code) ∧
        ((reg = 0 ∧ (s.params.noop = .nothing ∨ (s.params.noop = .zeroData ∧ data ≠ 0)) ∨
            reg = 0x0D ∨ reg = 0x0E ∨ 0x10 ≤ reg.toNat) →
          ∀ code, chipCell t p code = none)

/-- Which chip a slot reaches (rule R57): after the 2·N bytes of a frame are shifted in, the chip at pos `p` holds the
pair of slot `N - 1 - p`, its register byte in `SR[2p+1]` and its data byte in `SR[2p]`. -/
def Obligations.SlotReachesPosition : Prop :=
  ∀ (s : State) (pairs : List (Byte × Byte)), s.chain.frameOpen = true → pairs.length = chainLength s →
    let t := (pairs.flatMap (fun q => [q.1, q.2])).foldl (fun u b => chainTxOk b u) s
    ∀ p, p < chainLength s → ∃ q, pairs[chainLength s - 1 - p]? = some q ∧
      t.chain.sr[2 * p + 1]? = some q.1 ∧ t.chain.sr[2 * p]? = some q.2

/-! ### The whole machine -/

/-- The invariant holds after reset. -/
def Obligations.ResetMeetsInvariant : Prop := State.reset.Inv ∧ Bracketed State.reset

/-- Every step keeps the invariant: the memories' canonical form, `MODE` BUSY exactly while a command runs, `N` in range,
`SEQ` inside the command's frames and slots, the outstanding request the one `SEQ` says, no error latched inside a
frame, what is known of the shift registers, and that bytes older than the open frame come before its own (rules R16,
R19, R20, R24, R25, R28, R30, R55, R176 (b); the field `stale` is the model's, log entry 30). -/
def Obligations.StepKeepsInvariant : Prop :=
  ∀ s t : State, s.Inv → step s = .next t → t.Inv

/-- The select discipline (rule R108 (a) to (d)): from a state that keeps it, every step but a `RESET` of a BUSY block
(rule R191) keeps it: bytes only between an assert answered `ok` and the release, one release for each assert, at most
2·N bytes in a frame and exactly 2·N when none failed and no cancel was seen, `DONE` only after the release. -/
def Obligations.StepKeepsSelectDiscipline : Prop :=
  ∀ s t : State, s.Inv → Bracketed s → ¬ resetsWhileBusy s → step s = .next t → Bracketed t

/-- From a state that meets the invariant the machine stops only where the host writes `BUF` beyond its end (log entry
15), and no state makes it refuse. -/
def Obligations.OnlyBadBufWriteStops : Prop :=
  ∀ s : State,
    (∀ r, step s ≠ .refused r) ∧
    (s.Inv → ∀ e, step s = .fault e →
      ∃ a v rest, s.schedule = .host (.writeBuf a v) :: rest ∧ s.mode ≠ .busy ∧ s.params.bufMax ≤ a ∧
        e = .noSuchBufByte a)

/-- A command whose requests are all answered `ok`, with no cancel, sends exactly its frames, each one assert, 2·N bytes in
slot order and one deassert, and ends with OK; `MODE` is IDLE again, `SEL_STATE` DEASSERTED, and the operands, `N`, `RES`
and `ERRINFO` are as they were (rules R100, R105, R108 (e), R209). -/
def Obligations.SuccessfulCommandSendsItsFrames : Prop :=
  ∀ (s : State) (i : Instr) (count : Nat) (rest : List Turn), ReadyToSend s i count rest →
    ∃ t, Host.Core.run Sys2Proof.core (2 * requestCount count s.n.toNat) s = .next t ∧
      t.trace = s.trace ++ commandEvents s.params s.n.toNat i count ∧
      t.status = .ok ∧ t.mode = .idle ∧ t.seq = .idle ∧ t.selState = .deasserted ∧ t.line = some .deassert ∧
      t.schedule = rest ∧ t.n = s.n ∧ t.w0 = s.w0 ∧ t.w1 = s.w1 ∧ t.w2 = s.w2 ∧ t.buf = s.buf ∧ t.res = s.res ∧
      t.errInfo = s.errInfo ∧ t.params = s.params

/-- After a successful WRITE_LINE the chip at pos `p` holds `payload[N-1-p]` in the line's row register, and no other
cell of any chip has changed (rules R57, R58, R114). -/
def Obligations.WriteLineReachesTheChips : Prop :=
  ∀ (s : State) (line : Byte) (payload : List Byte) (rest : List Turn),
    ReadyToSend s (.writeLine line payload) 1 rest → chainLength s = s.n.toNat →
    ∃ t, Host.Core.run Sys2Proof.core (2 * requestCount 1 s.n.toNat) s = .next t ∧
      ∀ p code, chipCell t p code =
        if p < s.n.toNat ∧ code = line + 1 then payload[s.n.toNat - 1 - p]? else chipCell s p code

/-- After a successful WRITE_DEVICE of a register the source names, under `NOOP_HARMLESS`, the chip at pos `dev` holds the
byte and no other cell of any chip has changed (rules R57, R58, R60, R115, R206). -/
def Obligations.WriteDeviceChangesOneCell : Prop :=
  ∀ (s : State) (dev reg data : Byte) (rest : List Turn),
    ReadyToSend s (.writeDevice dev reg data) 1 rest → chainLength s = s.n.toNat →
    s.params.noop ≠ .nothing →
    (1 ≤ reg.toNat ∧ reg.toNat ≤ 0x0C ∨ reg = 0x0F) →
    ∃ t, Host.Core.run Sys2Proof.core (2 * requestCount 1 s.n.toNat) s = .next t ∧
      ∀ p code, chipCell t p code = if p = dev.toNat ∧ code = reg then some data else chipCell s p code

/-- After a successful RENDER_TEXT the display shows the text moved by `x_pos` columns, padded with the sentinel glyph, on
every chip and row (rules R61, R130, R136, R139). -/
def Obligations.RenderTextShowsTheText : Prop :=
  ∀ (s : State) (text : List Byte) (x : Int) (rest : List Turn),
    ReadyToSend s (.renderText text x) 8 rest → chainLength s = s.n.toNat →
    ∃ t, Host.Core.run Sys2Proof.core (2 * requestCount 8 s.n.toNat) s = .next t ∧
      ∀ u r, u < 8 * s.n.toNat → r < 8 →
        displayPixel t u r = some (textPixel (glyphRow s.params) text ((u : Int) - x) r)

/-- A chain of another length than `N` (rule R205): after a command all of whose requests were answered `ok`, no register
of any chip is determinate, although the command ended with OK. -/
def Obligations.WrongLengthSpoilsTheChips : Prop :=
  ∀ (s : State) (i : Instr) (count : Nat) (rest : List Turn),
    ReadyToSend s i count rest → chainLength s ≠ s.n.toNat →
    ∃ t, Host.Core.run Sys2Proof.core (2 * requestCount count s.n.toNat) s = .next t ∧ t.status = .ok ∧
      ∀ p code, chipCell t p code = none

/-- After a successful CLEAR all eight rows of every chip are zero and no control register has changed (rule R112). -/
def Obligations.ClearDarkensEveryRow : Prop :=
  ∀ (s : State) (rest : List Turn), ReadyToSend s .clear 8 rest → chainLength s = s.n.toNat →
    ∃ t, Host.Core.run Sys2Proof.core (2 * requestCount 8 s.n.toNat) s = .next t ∧
      ∀ p code, chipCell t p code =
        if p < s.n.toNat ∧ 1 ≤ code.toNat ∧ code.toNat ≤ 8 then some 0 else chipCell s p code

/-- A running command ends: where every request is answered (the turns left to the environment's free answers, log
entries 1, 2), a BUSY block is IDLE again within a bounded number of steps, whatever fails (rules R104, R166, entry U12). -/
def Obligations.RunningCommandEnds : Prop :=
  ∀ s : State, s.Inv → s.mode = .busy → s.schedule = [] →
    ∃ k t, k ≤ s.abandoned.length + 2 * requestCount 8 s.n.toNat ∧
      Host.Core.run Sys2Proof.core k s = .next t ∧ t.mode = .idle

/-- The chips' registers change only in the step that answers a deassert (rules R50 (a), R54): one a `RESET` abandoned, or
the block's own; and a register takes a byte only where that answer is `ok` and the frame is complete. That an abandoned
deassert is answered when it is the select output's oldest owed request, leaves the list with no event and still acts
on the chips is the model's (log entry 10). -/
def Obligations.ChipsChangeOnlyAtRelease : Prop :=
  ∀ s t : State, step s = .next t → t.chain.creg ≠ s.chain.creg →
    (s.schedule = [] ∨ ∃ a rest, s.schedule = .answer .seldrv a :: rest) ∧
    ((∃ before after, s.abandoned = before ++ .sel .deassert :: after ∧ t.abandoned = before ++ after ∧
        (∀ q ∈ before, requestedOf q ≠ .seldrv) ∧ t.outstanding = s.outstanding ∧ t.trace = s.trace) ∨
     (s.outstanding = some (.sel .deassert) ∧ t.outstanding = none ∧ t.abandoned = s.abandoned ∧
        ∃ a es, t.trace = s.trace ++ .answered a :: es)) ∧
    (∀ p code v, chipCell t p code = some v → chipCell s p code ≠ some v →
      t.line = some .deassert ∧ s.chain.frameOpen = true ∧ s.chain.bad = false ∧ s.chain.cnt = 2 * chainLength s)

/-- The block reads nothing of the chips or of the line (rules R14, R31, R47): two states that differ only there take the
same step but for what is there. -/
def Obligations.BlockNeverReadsTheChips : Prop :=
  ∀ (s t : State) (c : Chain) (l : Option Sel), step s = .next t →
    ∃ t', step { s with chain := c, line := l } = .next t' ∧ t' = { t with chain := t'.chain, line := t'.line }

/-- `RES` is written only by a successful ROTATE (rule R23), and by `RESET`. -/
def Obligations.OnlyRotateWritesResult : Prop :=
  ∀ s t : State, step s = .next t → t.res ≠ s.res →
    (∃ rest, s.schedule = .host .reset :: rest) ∨
    (∃ rest m, s.schedule = .host .start :: rest ∧ s.mode ≠ .busy ∧ fetchCommand s = .ok (.rotate m) ∧
      t.res = rot m ∧ t.status = .ok)

/-- `N` is written only by a successful CONFIGURE of an unconfigured block (rule R20), and by `RESET`. -/
def Obligations.OnlyConfigureWritesLength : Prop :=
  ∀ s t : State, step s = .next t → t.n ≠ s.n →
    (∃ rest, s.schedule = .host .reset :: rest) ∨
    (∃ rest n, s.schedule = .host .start :: rest ∧ s.mode = .unconfigured ∧ fetchCommand s = .ok (.configure n) ∧
      1 ≤ n.toNat ∧ n.toNat ≤ s.params.nMax ∧ t.n = n ∧ t.mode = .idle ∧ t.status = .ok)

/-- `STATUS` and `ERRINFO` are written only by the end-of-command step (rules R26, R27, R166), and by `RESET`: where either
changes, the step's last event is `DONE` with that status. -/
def Obligations.StatusIsWrittenAtDone : Prop :=
  ∀ s t : State, step s = .next t → (t.status ≠ s.status ∨ t.errInfo ≠ s.errInfo) →
    (∃ rest, s.schedule = .host .reset :: rest) ∨
    (∃ es c, t.trace = s.trace ++ es ++ [.done c] ∧ t.status = completionStatus c ∧
      t.errInfo = (match c with
        | .transportError e => .transport e | .signalError e => .signal e | _ => s.errInfo))

/-- The first error of a command is never overwritten (rules R28, R169): once latched it stays until the next command is
accepted or the block is reset. -/
def Obligations.FirstErrorStays : Prop :=
  ∀ (s t : State) (c : Completion), step s = .next t → s.err = some c →
    t.err = some c ∨ (∃ rest, s.schedule = .host .reset :: rest) ∨
    (∃ rest, s.schedule = .host .start :: rest ∧ s.mode ≠ .busy ∧ t.err = none)

/-- While a command runs its operands cannot change (rules R62, R208): no turn but `RESET` changes the descriptor, `BUF` or
`N`, and the running command stays until it ends. -/
def Obligations.OperandsLockedWhileBusy : Prop :=
  ∀ s t : State, step s = .next t → s.mode = .busy → (∀ rest, s.schedule ≠ .host .reset :: rest) →
    t.w0 = s.w0 ∧ t.w1 = s.w1 ∧ t.w2 = s.w2 ∧ t.buf = s.buf ∧ t.n = s.n ∧ t.res = s.res ∧
    (t.inFlight = s.inFlight ∨ (t.inFlight = none ∧ t.mode = .idle))

/-- No step changes the platform's parameters (rules R5, R32, R41), and a step only adds to the trace (rule R10). -/
def Obligations.ParametersFixedTraceGrows : Prop :=
  ∀ s t : State, step s = .next t → t.params = s.params ∧ ∃ es, t.trace = s.trace ++ es

/-- At most one request is outstanding: while the block waits, a turn of the sequencer does nothing at all, no other turn
issues a request or adds an event, and only the answer of the collaborator the request went to, or `RESET`, takes the
request away (rules R16, R17, R52 item 1). -/
def Obligations.OneRequestAtATime : Prop :=
  ∀ (s t : State) (r : Request), s.Inv → step s = .next t → s.outstanding = some r →
    (∀ rest, s.schedule = .sequencer :: rest → t = { s with schedule := rest }) ∧
    ((t.outstanding = some r ∧ t.seq = s.seq ∧ t.trace = s.trace) ∨
     (∃ rest, s.schedule = .host .reset :: rest) ∨
     ((s.schedule = [] ∨ ∃ a rest, s.schedule = .answer (requestedOf r) a :: rest) ∧
        t.outstanding = none ∧ t.abandoned = s.abandoned ∧ ∃ a es, t.trace = s.trace ++ .answered a :: es))

/-- The answer to a request that a `RESET` abandoned is discarded: it changes nothing of the block, and adds no event
(rule R191). That a collaborator answers the oldest request it owes an answer to is the model's (log entry 10). -/
def Obligations.AbandonedAnswersAreDiscarded : Prop :=
  ∀ (s : State) (c : Collaborator) (a : Answer) (rest : List Turn) (r : Request) (before after : List Request),
    s.schedule = .answer c a :: rest → s.abandoned = before ++ r :: after → requestedOf r = c →
    (∀ q ∈ before, requestedOf q ≠ c) →
    ∃ t, step s = .next t ∧
      t = { s with schedule := rest, abandoned := before ++ after, chain := t.chain, line := t.line }

/-- A `RESET` while BUSY abandons the outstanding request and issues no release (rule R191): the line stays as it was
while `SEL_STATE` says DEASSERTED. That the abandoned request waits in a list for its answer is the model's (log entry
10), and so is that the chain keeps its length although `N` is forgotten (log entry 7). -/
def Obligations.ResetWhileBusyLeavesTheLine : Prop :=
  ∀ (s : State) (rest : List Turn), s.schedule = .host .reset :: rest → s.mode = .busy →
    ∃ t, step s = .next t ∧ t.abandoned = s.abandoned ++ s.outstanding.toList ∧ t.outstanding = none ∧
      t.line = s.line ∧ t.selState = .deasserted ∧ t.trace = s.trace ∧ t.mode = .unconfigured ∧
      chainLength t = chainLength s

/-- A byte that a `RESET` abandoned and that is answered after the next assert does not spoil the frame that assert opened
(rule R203): it changes no register, the frame is open and unfailed with no byte counted, and once that frame's own
2·N bytes are shifted in, it is complete and the chips hold exactly its pairs. That such a byte is not counted is read
from rule R203, and the field `stale` that tells it is the model's (log entry 30). -/
def Obligations.LateByteDoesNotSpoilTheNextFrame : Prop :=
  ∀ (s : State) (a : Answer) (b : Byte) (rest : List Turn) (before after : List Request) (pairs : List (Byte × Byte)),
    s.schedule = .answer .xfer a :: rest → s.abandoned = before ++ .tx b :: after →
    (∀ q ∈ before, requestedOf q ≠ .xfer) → s.chain.stale ≠ 0 →
    s.chain.frameOpen = true → s.chain.bad = false → s.chain.cnt = 0 → pairs.length = chainLength s →
    ∃ t, step s = .next t ∧ t.chain = { s.chain with sr := t.chain.sr, stale := s.chain.stale - 1 } ∧
      let u := (pairs.flatMap (fun q => [q.1, q.2])).foldl (fun u b => chainTxOk b u) t
      u.chain.creg = s.chain.creg ∧ frameComplete u = true ∧
      ∀ p, p < chainLength s → ∃ q, pairs[chainLength s - 1 - p]? = some q ∧
        u.chain.sr[2 * p + 1]? = some q.1 ∧ u.chain.sr[2 * p]? = some q.2

/-- A byte of the open frame that a `RESET` abandoned is answered as rule R56 says, `CNT` and `BAD` included, and the chips
take no other notice of the `RESET`. That the shift registers are indeterminate where it failed is the model's (log
entry 28), and so is the field `stale` that tells whose byte it is (log entry 30). -/
def Obligations.AbandonedByteOfTheOpenFrameCounts : Prop :=
  ∀ (s : State) (a : Answer) (b : Byte) (rest : List Turn) (before after : List Request),
    s.schedule = .answer .xfer a :: rest → s.abandoned = before ++ .tx b :: after →
    (∀ q ∈ before, requestedOf q ≠ .xfer) → s.chain.stale = 0 → s.chain.frameOpen = true →
    step s = .next { s with
      schedule := rest, abandoned := before ++ after
      chain := match a with
        | .ok => { s.chain with sr := (b :: s.chain.sr).take (2 * chainLength s), cnt := s.chain.cnt + 1 }
        | .err _ => { s.chain with sr := [], bad := true } }

end
end

