-- ==== Sys2Proof/Laws/Decode.lean ====
section
/-! SUPPORT. The laws of the encodings: fields of packed words, register codes, and buffer reads. -/

namespace Sys2Proof

theorem getLsbD_packW0 (c b a opc : Byte) (i : Nat) :
    (packW0 c b a opc).getLsbD i =
      if i < 8 then opc.getLsbD i
      else if i < 16 then a.getLsbD (i - 8)
      else if i < 24 then b.getLsbD (i - 16)
      else c.getLsbD (i - 24) := by
  change BitVec.getLsbD (w := 8 + 8 + 8 + 8) (c ++ b ++ a ++ opc) i = _
  simp only [BitVec.getLsbD_append]
  by_cases h1 : i < 8
  · simp [h1]
  · by_cases h2 : i < 16
    · simp [h1, h2, show i - 8 < 8 by omega]
    · by_cases h3 : i < 24
      · simp [h1, h2, h3, show ¬ i - 8 < 8 by omega, show i - 16 < 8 by omega, Nat.sub_sub]
      · simp [h1, h2, h3, show ¬ i - 8 < 8 by omega, show ¬ i - 16 < 8 by omega,
          Nat.sub_sub]

@[simp] theorem fieldOpc_packW0 (c b a opc : Byte) : fieldOpc (packW0 c b a opc) = opc := by
  apply BitVec.eq_of_getLsbD_eq
  intro i hi
  simp only [fieldOpc, BitVec.getLsbD_extractLsb', getLsbD_packW0, hi, decide_true, Bool.true_and]
  simp [hi]

@[simp] theorem fieldA_packW0 (c b a opc : Byte) : fieldA (packW0 c b a opc) = a := by
  apply BitVec.eq_of_getLsbD_eq
  intro i hi
  simp only [fieldA, BitVec.getLsbD_extractLsb', getLsbD_packW0, hi, decide_true, Bool.true_and]
  simp [show ¬ 8 + i < 8 by omega, show 8 + i < 16 by omega, show 8 + i - 8 = i by omega]

@[simp] theorem fieldB_packW0 (c b a opc : Byte) : fieldB (packW0 c b a opc) = b := by
  apply BitVec.eq_of_getLsbD_eq
  intro i hi
  simp only [fieldB, BitVec.getLsbD_extractLsb', getLsbD_packW0, hi, decide_true, Bool.true_and]
  simp [show ¬ 16 + i < 8 by omega, show ¬ 16 + i < 16 by omega, show 16 + i < 24 by omega, show 16 + i - 16 = i by omega]

@[simp] theorem fieldC_packW0 (c b a opc : Byte) : fieldC (packW0 c b a opc) = c := by
  apply BitVec.eq_of_getLsbD_eq
  intro i hi
  simp only [fieldC, BitVec.getLsbD_extractLsb', getLsbD_packW0, hi, decide_true, Bool.true_and]
  simp [show ¬ 24 + i < 8 by omega, show ¬ 24 + i < 16 by omega, show ¬ 24 + i < 24 by omega, show 24 + i - 24 = i by omega]

theorem fieldLen_packW1 {len : Nat} (h : len < 2 ^ 16) : fieldLen (packW1 len) = len := by
  have hx : (packW1 len).extractLsb' 0 16 = BitVec.ofNat 16 len := by
    apply BitVec.eq_of_getLsbD_eq
    intro i hi
    simp only [BitVec.getLsbD_extractLsb', hi, decide_true, Bool.true_and, Nat.zero_add]
    change BitVec.getLsbD (w := 16 + 16) ((0 : BitVec 16) ++ BitVec.ofNat 16 len) i = _
    rw [BitVec.getLsbD_append, if_pos hi]
  rw [fieldLen, hx, BitVec.toNat_ofNat, Nat.mod_eq_of_lt h]

theorem fieldXPos_ofInt {x : Int} (h : Instr.xPosFits x) : fieldXPos (BitVec.ofInt 32 x) = x := by
  obtain ⟨h1, h2⟩ := h
  rw [fieldXPos, BitVec.toInt_ofInt, Int.bmod_eq_of_le] <;> omega

theorem getLsbD_packPair (reg data : Byte) (i : Nat) :
    (packPair reg data).getLsbD i = if i < 8 then data.getLsbD i else reg.getLsbD (i - 8) := by
  change BitVec.getLsbD (w := 8 + 8) (reg ++ data) i = _
  rw [BitVec.getLsbD_append]

@[simp] theorem pairReg_packPair (reg data : Byte) : pairReg (packPair reg data) = reg := by
  apply BitVec.eq_of_getLsbD_eq
  intro i hi
  simp only [pairReg, BitVec.getLsbD_extractLsb', getLsbD_packPair, hi, decide_true, Bool.true_and]
  simp [show ¬ 8 + i < 8 by omega, show 8 + i - 8 = i by omega]

@[simp] theorem pairData_packPair (reg data : Byte) : pairData (packPair reg data) = data := by
  apply BitVec.eq_of_getLsbD_eq
  intro i hi
  simp only [pairData, BitVec.getLsbD_extractLsb', getLsbD_packPair, hi, decide_true, Bool.true_and]
  simp [hi]

theorem packPair_pairReg_pairData (w : BitVec 16) : packPair (pairReg w) (pairData w) = w := by
  apply BitVec.eq_of_getLsbD_eq
  intro i hi
  simp only [getLsbD_packPair, pairReg, pairData, BitVec.getLsbD_extractLsb']
  by_cases h : i < 8
  · simp [h]
  · have h1 : i - 8 < 8 := by omega
    have h2 : 8 + (i - 8) = i := by omega
    simp [h, h1, h2]

theorem Register.code_of_ofCode {b : Byte} {r : Register} (h : Register.ofCode b = some r) : r.code = b := by
  apply BitVec.eq_of_toNat_eq
  unfold Register.ofCode at h
  split at h <;> first | (cases h; simpa [Register.code] using (Eq.symm ‹_›)) | (cases h)

theorem encode_pairInstr (r : Register) (data : Byte) : encode (pairInstr r data) = .pair (packPair r.code data) := by
  cases r <;> rfl

theorem bytesOf_congr {buf buf' : Nat → Byte} {len : Nat} (h : ∀ a, a < len → buf a = buf' a) :
    bytesOf buf len = bytesOf buf' len :=
  List.map_congr_left (fun a ha => h a (List.mem_range.1 ha))

@[simp] theorem length_bytesOf (buf : Nat → Byte) (len : Nat) : (bytesOf buf len).length = len := by simp [bytesOf]

theorem bytesOf_byte (d : Descriptor) : bytesOf d.byte d.buf.length = d.buf := by
  apply List.ext_getElem
  · simp
  · intro i h1 h2
    simp [bytesOf, Descriptor.byte, h2]

theorem matrixOf_byte (w0 w1 w2 : Word32) (m : Matrix8) : matrixOf (Descriptor.byte ⟨w0, w1, w2, matrixBytes m⟩) = m := by
  cases m
  rfl

end Sys2Proof
end

