-- ==== Sys2Proof/Laws/Memory.lean ====
section
/-! SUPPORT. The laws of the byte memories: read after write, read after forget, and that every operation keeps the
canonical form. -/

namespace Sys2Proof

@[simp] theorem Memory.read_nil (a : Nat) : Memory.read [] a = none := rfl

theorem Memory.read_cons (k : Nat) (v : Byte) (m : Memory) (a : Nat) :
    Memory.read ((k, v) :: m) a = if k = a then some v else Memory.read m a := rfl

@[simp] theorem Memory.read_write_same (m : Memory) (a : Nat) (v : Byte) : (m.write a v).read a = some v := by
  induction m with
  | nil => simp [Memory.write, Memory.read_cons]
  | cons c m ih =>
    obtain ⟨k, w⟩ := c
    simp only [Memory.write]
    split
    · simp [Memory.read_cons]
    · split
      · simp [Memory.read_cons]
      · rw [Memory.read_cons, if_neg (by omega), ih]

theorem Memory.read_write_other (m : Memory) {a b : Nat} (v : Byte) (h : b ≠ a) : (m.write a v).read b = m.read b := by
  induction m with
  | nil => simp [Memory.write, Memory.read_cons, Ne.symm h]
  | cons c m ih =>
    obtain ⟨k, w⟩ := c
    simp only [Memory.write]
    split
    · simp [Memory.read_cons, Ne.symm h]
    · split
      · subst_vars
        simp [Memory.read_cons, Ne.symm h]
      · simp [Memory.read_cons, ih]

theorem Memory.mem_write {m : Memory} {a : Nat} {v : Byte} {c : Host.Cell} (h : c ∈ m.write a v) :
    c = (a, v) ∨ c ∈ m := by
  induction m with
  | nil => simpa [Memory.write] using h
  | cons d m ih =>
    obtain ⟨k, w⟩ := d
    simp only [Memory.write] at h
    split at h
    · simpa using h
    · split at h
      · rcases List.mem_cons.1 h with h | h
        · exact .inl h
        · exact .inr (List.mem_cons_of_mem _ h)
      · rcases List.mem_cons.1 h with h | h
        · exact .inr (h ▸ List.mem_cons_self)
        · exact (ih h).imp id (List.mem_cons_of_mem _)

theorem Memory.wf_write {m : Memory} (hm : m.wf) (a : Nat) (v : Byte) : (m.write a v).wf := by
  induction m with
  | nil => simp [Memory.write, Memory.wf]
  | cons c m ih =>
    obtain ⟨k, w⟩ := c
    obtain ⟨hk, hm'⟩ := List.pairwise_cons.1 hm
    simp only [Memory.write]
    split
    · rename_i hlt
      refine List.pairwise_cons.2 ⟨fun d hd => ?_, hm⟩
      rcases List.mem_cons.1 hd with rfl | hd
      · exact hlt
      · exact Nat.lt_trans hlt (hk d hd)
    · rename_i hlt
      split
      · rename_i heq
        subst heq
        exact List.pairwise_cons.2 ⟨hk, hm'⟩
      · refine List.pairwise_cons.2 ⟨fun d hd => ?_, ih hm'⟩
        rcases Memory.mem_write hd with rfl | hd
        · simp only
          omega
        · exact hk d hd

theorem Memory.mem_of_mem_forget {m : Memory} {gone : Nat → Bool} {c : Host.Cell} (h : c ∈ m.forget gone) : c ∈ m :=
  (List.mem_filter.1 h).1

theorem Memory.wf_forget {m : Memory} (hm : m.wf) (gone : Nat → Bool) : (m.forget gone).wf :=
  List.Pairwise.filter _ hm

theorem Memory.read_forget (m : Memory) (gone : Nat → Bool) (a : Nat) :
    (m.forget gone).read a = if gone a then none else m.read a := by
  induction m with
  | nil => simp [Memory.forget]
  | cons c m ih =>
    obtain ⟨k, w⟩ := c
    simp only [Memory.forget] at ih ⊢
    by_cases hg : gone k = true
    · rw [List.filter_cons_of_neg (by simp [hg]), ih, Memory.read_cons]
      by_cases hka : k = a
      · subst hka
        simp [hg]
      · simp [hka]
    · rw [List.filter_cons_of_pos (by simpa using hg), Memory.read_cons, ih, Memory.read_cons]
      by_cases hka : k = a
      · subst hka
        simp [hg]
      · simp [hka]

end Sys2Proof

namespace Sys2Proof.Machine

/-- Two cells of the chips share an address only if they are the same cell. -/
theorem cellAddress_inj {p q : Nat} {c d : Byte} (h : cellAddress p c = cellAddress q d) : p = q ∧ c = d := by
  simp only [cellAddress] at h
  have hc := c.isLt
  have hd := d.isLt
  exact ⟨by omega, BitVec.eq_of_toNat_eq (by omega)⟩

theorem cellAddress_div (p : Nat) (c : Byte) : cellAddress p c / 256 = p := by
  simp only [cellAddress]
  have := c.isLt
  omega

theorem chipCell_writeChipCell_same (s : State) (p : Nat) (c v : Byte) :
    chipCell (writeChipCell p c v s) p c = some v := by
  simp [chipCell, writeChipCell]

theorem chipCell_writeChipCell_other (s : State) {p q : Nat} {c d : Byte} (v : Byte) (h : ¬(q = p ∧ d = c)) :
    chipCell (writeChipCell p c v s) q d = chipCell s q d := by
  simp only [chipCell, writeChipCell]
  exact Memory.read_write_other _ _ (fun he => h (cellAddress_inj he))

theorem chipCell_forgetChip (s : State) (p q : Nat) (c : Byte) :
    chipCell (forgetChip p s) q c = if q = p then none else chipCell s q c := by
  simp [chipCell, forgetChip, Memory.read_forget, cellAddress_div]

theorem chipCell_forgetChain (s : State) (q : Nat) (c : Byte) : chipCell (forgetChain s) q c = none := by
  simp [chipCell, forgetChain]

end Sys2Proof.Machine
end

