-- ==== Sys2Proof/Laws/State.lean ====
section
/-! SUPPORT. One lemma per field per named update of the state, true by rfl, so that no later proof unfolds a record
update. -/

namespace Sys2Proof.Machine

variable (s : State)

/-! ### emit -/

@[simp] theorem emit_mode (e : Event) : (emit e s).mode = s.mode := rfl
@[simp] theorem emit_n (e : Event) : (emit e s).n = s.n := rfl
@[simp] theorem emit_w0 (e : Event) : (emit e s).w0 = s.w0 := rfl
@[simp] theorem emit_w1 (e : Event) : (emit e s).w1 = s.w1 := rfl
@[simp] theorem emit_w2 (e : Event) : (emit e s).w2 = s.w2 := rfl
@[simp] theorem emit_buf (e : Event) : (emit e s).buf = s.buf := rfl
@[simp] theorem emit_res (e : Event) : (emit e s).res = s.res := rfl
@[simp] theorem emit_status (e : Event) : (emit e s).status = s.status := rfl
@[simp] theorem emit_errInfo (e : Event) : (emit e s).errInfo = s.errInfo := rfl
@[simp] theorem emit_selState (e : Event) : (emit e s).selState = s.selState := rfl
@[simp] theorem emit_cancelPend (e : Event) : (emit e s).cancelPend = s.cancelPend := rfl
@[simp] theorem emit_seq (e : Event) : (emit e s).seq = s.seq := rfl
@[simp] theorem emit_err (e : Event) : (emit e s).err = s.err := rfl
@[simp] theorem emit_outstanding (e : Event) : (emit e s).outstanding = s.outstanding := rfl
@[simp] theorem emit_line (e : Event) : (emit e s).line = s.line := rfl
@[simp] theorem emit_chain (e : Event) : (emit e s).chain = s.chain := rfl
@[simp] theorem emit_abandoned (e : Event) : (emit e s).abandoned = s.abandoned := rfl
@[simp] theorem emit_inFlight (e : Event) : (emit e s).inFlight = s.inFlight := rfl
@[simp] theorem emit_trace (e : Event) : (emit e s).trace = s.trace ++ [e] := rfl
@[simp] theorem emit_portData (e : Event) : (emit e s).portData = s.portData := rfl
@[simp] theorem emit_schedule (e : Event) : (emit e s).schedule = s.schedule := rfl
@[simp] theorem emit_draws (e : Event) : (emit e s).draws = s.draws := rfl
@[simp] theorem emit_params (e : Event) : (emit e s).params = s.params := rfl

/-! ### issue -/

@[simp] theorem issue_mode (r : Request) (q : Seq) : (issue r q s).mode = s.mode := rfl
@[simp] theorem issue_n (r : Request) (q : Seq) : (issue r q s).n = s.n := rfl
@[simp] theorem issue_w0 (r : Request) (q : Seq) : (issue r q s).w0 = s.w0 := rfl
@[simp] theorem issue_w1 (r : Request) (q : Seq) : (issue r q s).w1 = s.w1 := rfl
@[simp] theorem issue_w2 (r : Request) (q : Seq) : (issue r q s).w2 = s.w2 := rfl
@[simp] theorem issue_buf (r : Request) (q : Seq) : (issue r q s).buf = s.buf := rfl
@[simp] theorem issue_res (r : Request) (q : Seq) : (issue r q s).res = s.res := rfl
@[simp] theorem issue_status (r : Request) (q : Seq) : (issue r q s).status = s.status := rfl
@[simp] theorem issue_errInfo (r : Request) (q : Seq) : (issue r q s).errInfo = s.errInfo := rfl
@[simp] theorem issue_selState (r : Request) (q : Seq) : (issue r q s).selState = s.selState := rfl
@[simp] theorem issue_cancelPend (r : Request) (q : Seq) : (issue r q s).cancelPend = s.cancelPend := rfl
@[simp] theorem issue_seq (r : Request) (q : Seq) : (issue r q s).seq = q := rfl
@[simp] theorem issue_err (r : Request) (q : Seq) : (issue r q s).err = s.err := rfl
@[simp] theorem issue_outstanding (r : Request) (q : Seq) : (issue r q s).outstanding = some r := rfl
@[simp] theorem issue_line (r : Request) (q : Seq) : (issue r q s).line = s.line := rfl
@[simp] theorem issue_chain (r : Request) (q : Seq) : (issue r q s).chain = s.chain := rfl
@[simp] theorem issue_abandoned (r : Request) (q : Seq) : (issue r q s).abandoned = s.abandoned := rfl
@[simp] theorem issue_inFlight (r : Request) (q : Seq) : (issue r q s).inFlight = s.inFlight := rfl
@[simp] theorem issue_trace (r : Request) (q : Seq) : (issue r q s).trace = s.trace ++ [requestEvent r] := rfl
@[simp] theorem issue_portData (r : Request) (q : Seq) : (issue r q s).portData = s.portData := rfl
@[simp] theorem issue_schedule (r : Request) (q : Seq) : (issue r q s).schedule = s.schedule := rfl
@[simp] theorem issue_draws (r : Request) (q : Seq) : (issue r q s).draws = s.draws := rfl
@[simp] theorem issue_params (r : Request) (q : Seq) : (issue r q s).params = s.params := rfl

/-! ### takeAnswer -/

@[simp] theorem takeAnswer_mode (a : Answer) : (takeAnswer a s).mode = s.mode := rfl
@[simp] theorem takeAnswer_n (a : Answer) : (takeAnswer a s).n = s.n := rfl
@[simp] theorem takeAnswer_w0 (a : Answer) : (takeAnswer a s).w0 = s.w0 := rfl
@[simp] theorem takeAnswer_w1 (a : Answer) : (takeAnswer a s).w1 = s.w1 := rfl
@[simp] theorem takeAnswer_w2 (a : Answer) : (takeAnswer a s).w2 = s.w2 := rfl
@[simp] theorem takeAnswer_buf (a : Answer) : (takeAnswer a s).buf = s.buf := rfl
@[simp] theorem takeAnswer_res (a : Answer) : (takeAnswer a s).res = s.res := rfl
@[simp] theorem takeAnswer_status (a : Answer) : (takeAnswer a s).status = s.status := rfl
@[simp] theorem takeAnswer_errInfo (a : Answer) : (takeAnswer a s).errInfo = s.errInfo := rfl
@[simp] theorem takeAnswer_selState (a : Answer) : (takeAnswer a s).selState = s.selState := rfl
@[simp] theorem takeAnswer_cancelPend (a : Answer) : (takeAnswer a s).cancelPend = s.cancelPend := rfl
@[simp] theorem takeAnswer_seq (a : Answer) : (takeAnswer a s).seq = s.seq := rfl
@[simp] theorem takeAnswer_err (a : Answer) : (takeAnswer a s).err = s.err := rfl
@[simp] theorem takeAnswer_outstanding (a : Answer) : (takeAnswer a s).outstanding = none := rfl
@[simp] theorem takeAnswer_line (a : Answer) : (takeAnswer a s).line = s.line := rfl
@[simp] theorem takeAnswer_chain (a : Answer) : (takeAnswer a s).chain = s.chain := rfl
@[simp] theorem takeAnswer_abandoned (a : Answer) : (takeAnswer a s).abandoned = s.abandoned := rfl
@[simp] theorem takeAnswer_inFlight (a : Answer) : (takeAnswer a s).inFlight = s.inFlight := rfl
@[simp] theorem takeAnswer_trace (a : Answer) : (takeAnswer a s).trace = s.trace ++ [.answered a] := rfl
@[simp] theorem takeAnswer_portData (a : Answer) : (takeAnswer a s).portData = s.portData := rfl
@[simp] theorem takeAnswer_schedule (a : Answer) : (takeAnswer a s).schedule = s.schedule := rfl
@[simp] theorem takeAnswer_draws (a : Answer) : (takeAnswer a s).draws = s.draws := rfl
@[simp] theorem takeAnswer_params (a : Answer) : (takeAnswer a s).params = s.params := rfl

/-! ### endCommand -/

@[simp] theorem endCommand_mode (c : Completion) : (endCommand c s).mode = modeAfterEnd s.mode := rfl
@[simp] theorem endCommand_n (c : Completion) : (endCommand c s).n = s.n := rfl
@[simp] theorem endCommand_w0 (c : Completion) : (endCommand c s).w0 = s.w0 := rfl
@[simp] theorem endCommand_w1 (c : Completion) : (endCommand c s).w1 = s.w1 := rfl
@[simp] theorem endCommand_w2 (c : Completion) : (endCommand c s).w2 = s.w2 := rfl
@[simp] theorem endCommand_buf (c : Completion) : (endCommand c s).buf = s.buf := rfl
@[simp] theorem endCommand_res (c : Completion) : (endCommand c s).res = s.res := rfl
@[simp] theorem endCommand_status (c : Completion) : (endCommand c s).status = completionStatus c := rfl
@[simp] theorem endCommand_errInfo (c : Completion) : (endCommand c s).errInfo = errInfoAfter s.errInfo c := rfl
@[simp] theorem endCommand_selState (c : Completion) : (endCommand c s).selState = s.selState := rfl
@[simp] theorem endCommand_cancelPend (c : Completion) : (endCommand c s).cancelPend = false := rfl
@[simp] theorem endCommand_seq (c : Completion) : (endCommand c s).seq = .idle := rfl
@[simp] theorem endCommand_err (c : Completion) : (endCommand c s).err = s.err := rfl
@[simp] theorem endCommand_outstanding (c : Completion) : (endCommand c s).outstanding = s.outstanding := rfl
@[simp] theorem endCommand_line (c : Completion) : (endCommand c s).line = s.line := rfl
@[simp] theorem endCommand_chain (c : Completion) : (endCommand c s).chain = s.chain := rfl
@[simp] theorem endCommand_abandoned (c : Completion) : (endCommand c s).abandoned = s.abandoned := rfl
@[simp] theorem endCommand_inFlight (c : Completion) : (endCommand c s).inFlight = none := rfl
@[simp] theorem endCommand_trace (c : Completion) : (endCommand c s).trace = s.trace ++ [.done c] := rfl
@[simp] theorem endCommand_portData (c : Completion) : (endCommand c s).portData = s.portData := rfl
@[simp] theorem endCommand_schedule (c : Completion) : (endCommand c s).schedule = s.schedule := rfl
@[simp] theorem endCommand_draws (c : Completion) : (endCommand c s).draws = s.draws := rfl
@[simp] theorem endCommand_params (c : Completion) : (endCommand c s).params = s.params := rfl

/-! ### beginFrames -/

@[simp] theorem beginFrames_mode (i : Instr) : (beginFrames i s).mode = .busy := rfl
@[simp] theorem beginFrames_n (i : Instr) : (beginFrames i s).n = s.n := rfl
@[simp] theorem beginFrames_w0 (i : Instr) : (beginFrames i s).w0 = s.w0 := rfl
@[simp] theorem beginFrames_w1 (i : Instr) : (beginFrames i s).w1 = s.w1 := rfl
@[simp] theorem beginFrames_w2 (i : Instr) : (beginFrames i s).w2 = s.w2 := rfl
@[simp] theorem beginFrames_buf (i : Instr) : (beginFrames i s).buf = s.buf := rfl
@[simp] theorem beginFrames_res (i : Instr) : (beginFrames i s).res = s.res := rfl
@[simp] theorem beginFrames_status (i : Instr) : (beginFrames i s).status = s.status := rfl
@[simp] theorem beginFrames_errInfo (i : Instr) : (beginFrames i s).errInfo = s.errInfo := rfl
@[simp] theorem beginFrames_selState (i : Instr) : (beginFrames i s).selState = s.selState := rfl
@[simp] theorem beginFrames_cancelPend (i : Instr) : (beginFrames i s).cancelPend = s.cancelPend := rfl
@[simp] theorem beginFrames_seq (i : Instr) : (beginFrames i s).seq = .assert 0 := rfl
@[simp] theorem beginFrames_err (i : Instr) : (beginFrames i s).err = s.err := rfl
@[simp] theorem beginFrames_outstanding (i : Instr) : (beginFrames i s).outstanding = s.outstanding := rfl
@[simp] theorem beginFrames_line (i : Instr) : (beginFrames i s).line = s.line := rfl
@[simp] theorem beginFrames_chain (i : Instr) : (beginFrames i s).chain = s.chain := rfl
@[simp] theorem beginFrames_abandoned (i : Instr) : (beginFrames i s).abandoned = s.abandoned := rfl
@[simp] theorem beginFrames_inFlight (i : Instr) : (beginFrames i s).inFlight = some i := rfl
@[simp] theorem beginFrames_trace (i : Instr) : (beginFrames i s).trace = s.trace := rfl
@[simp] theorem beginFrames_portData (i : Instr) : (beginFrames i s).portData = s.portData := rfl
@[simp] theorem beginFrames_schedule (i : Instr) : (beginFrames i s).schedule = s.schedule := rfl
@[simp] theorem beginFrames_draws (i : Instr) : (beginFrames i s).draws = s.draws := rfl
@[simp] theorem beginFrames_params (i : Instr) : (beginFrames i s).params = s.params := rfl

/-! ### writeChipCell -/

@[simp] theorem writeChipCell_mode (p : Nat) (code v : Byte) : (writeChipCell p code v s).mode = s.mode := rfl
@[simp] theorem writeChipCell_n (p : Nat) (code v : Byte) : (writeChipCell p code v s).n = s.n := rfl
@[simp] theorem writeChipCell_w0 (p : Nat) (code v : Byte) : (writeChipCell p code v s).w0 = s.w0 := rfl
@[simp] theorem writeChipCell_w1 (p : Nat) (code v : Byte) : (writeChipCell p code v s).w1 = s.w1 := rfl
@[simp] theorem writeChipCell_w2 (p : Nat) (code v : Byte) : (writeChipCell p code v s).w2 = s.w2 := rfl
@[simp] theorem writeChipCell_buf (p : Nat) (code v : Byte) : (writeChipCell p code v s).buf = s.buf := rfl
@[simp] theorem writeChipCell_res (p : Nat) (code v : Byte) : (writeChipCell p code v s).res = s.res := rfl
@[simp] theorem writeChipCell_status (p : Nat) (code v : Byte) : (writeChipCell p code v s).status = s.status := rfl
@[simp] theorem writeChipCell_errInfo (p : Nat) (code v : Byte) : (writeChipCell p code v s).errInfo = s.errInfo := rfl
@[simp] theorem writeChipCell_selState (p : Nat) (code v : Byte) : (writeChipCell p code v s).selState = s.selState := rfl
@[simp] theorem writeChipCell_cancelPend (p : Nat) (code v : Byte) : (writeChipCell p code v s).cancelPend = s.cancelPend := rfl
@[simp] theorem writeChipCell_seq (p : Nat) (code v : Byte) : (writeChipCell p code v s).seq = s.seq := rfl
@[simp] theorem writeChipCell_err (p : Nat) (code v : Byte) : (writeChipCell p code v s).err = s.err := rfl
@[simp] theorem writeChipCell_outstanding (p : Nat) (code v : Byte) : (writeChipCell p code v s).outstanding = s.outstanding := rfl
@[simp] theorem writeChipCell_line (p : Nat) (code v : Byte) : (writeChipCell p code v s).line = s.line := rfl
@[simp] theorem writeChipCell_chain (p : Nat) (code v : Byte) : (writeChipCell p code v s).chain = { s.chain with creg := s.chain.creg.write (cellAddress p code) v } := rfl
@[simp] theorem writeChipCell_abandoned (p : Nat) (code v : Byte) : (writeChipCell p code v s).abandoned = s.abandoned := rfl
@[simp] theorem writeChipCell_inFlight (p : Nat) (code v : Byte) : (writeChipCell p code v s).inFlight = s.inFlight := rfl
@[simp] theorem writeChipCell_trace (p : Nat) (code v : Byte) : (writeChipCell p code v s).trace = s.trace := rfl
@[simp] theorem writeChipCell_portData (p : Nat) (code v : Byte) : (writeChipCell p code v s).portData = s.portData := rfl
@[simp] theorem writeChipCell_schedule (p : Nat) (code v : Byte) : (writeChipCell p code v s).schedule = s.schedule := rfl
@[simp] theorem writeChipCell_draws (p : Nat) (code v : Byte) : (writeChipCell p code v s).draws = s.draws := rfl
@[simp] theorem writeChipCell_params (p : Nat) (code v : Byte) : (writeChipCell p code v s).params = s.params := rfl

/-! ### forgetChip -/

@[simp] theorem forgetChip_mode (p : Nat) : (forgetChip p s).mode = s.mode := rfl
@[simp] theorem forgetChip_n (p : Nat) : (forgetChip p s).n = s.n := rfl
@[simp] theorem forgetChip_w0 (p : Nat) : (forgetChip p s).w0 = s.w0 := rfl
@[simp] theorem forgetChip_w1 (p : Nat) : (forgetChip p s).w1 = s.w1 := rfl
@[simp] theorem forgetChip_w2 (p : Nat) : (forgetChip p s).w2 = s.w2 := rfl
@[simp] theorem forgetChip_buf (p : Nat) : (forgetChip p s).buf = s.buf := rfl
@[simp] theorem forgetChip_res (p : Nat) : (forgetChip p s).res = s.res := rfl
@[simp] theorem forgetChip_status (p : Nat) : (forgetChip p s).status = s.status := rfl
@[simp] theorem forgetChip_errInfo (p : Nat) : (forgetChip p s).errInfo = s.errInfo := rfl
@[simp] theorem forgetChip_selState (p : Nat) : (forgetChip p s).selState = s.selState := rfl
@[simp] theorem forgetChip_cancelPend (p : Nat) : (forgetChip p s).cancelPend = s.cancelPend := rfl
@[simp] theorem forgetChip_seq (p : Nat) : (forgetChip p s).seq = s.seq := rfl
@[simp] theorem forgetChip_err (p : Nat) : (forgetChip p s).err = s.err := rfl
@[simp] theorem forgetChip_outstanding (p : Nat) : (forgetChip p s).outstanding = s.outstanding := rfl
@[simp] theorem forgetChip_line (p : Nat) : (forgetChip p s).line = s.line := rfl
@[simp] theorem forgetChip_chain (p : Nat) : (forgetChip p s).chain = { s.chain with creg := s.chain.creg.forget (fun a => a / 256 == p) } := rfl
@[simp] theorem forgetChip_abandoned (p : Nat) : (forgetChip p s).abandoned = s.abandoned := rfl
@[simp] theorem forgetChip_inFlight (p : Nat) : (forgetChip p s).inFlight = s.inFlight := rfl
@[simp] theorem forgetChip_trace (p : Nat) : (forgetChip p s).trace = s.trace := rfl
@[simp] theorem forgetChip_portData (p : Nat) : (forgetChip p s).portData = s.portData := rfl
@[simp] theorem forgetChip_schedule (p : Nat) : (forgetChip p s).schedule = s.schedule := rfl
@[simp] theorem forgetChip_draws (p : Nat) : (forgetChip p s).draws = s.draws := rfl
@[simp] theorem forgetChip_params (p : Nat) : (forgetChip p s).params = s.params := rfl

/-! ### forgetChain -/

@[simp] theorem forgetChain_mode : (forgetChain s).mode = s.mode := rfl
@[simp] theorem forgetChain_n : (forgetChain s).n = s.n := rfl
@[simp] theorem forgetChain_w0 : (forgetChain s).w0 = s.w0 := rfl
@[simp] theorem forgetChain_w1 : (forgetChain s).w1 = s.w1 := rfl
@[simp] theorem forgetChain_w2 : (forgetChain s).w2 = s.w2 := rfl
@[simp] theorem forgetChain_buf : (forgetChain s).buf = s.buf := rfl
@[simp] theorem forgetChain_res : (forgetChain s).res = s.res := rfl
@[simp] theorem forgetChain_status : (forgetChain s).status = s.status := rfl
@[simp] theorem forgetChain_errInfo : (forgetChain s).errInfo = s.errInfo := rfl
@[simp] theorem forgetChain_selState : (forgetChain s).selState = s.selState := rfl
@[simp] theorem forgetChain_cancelPend : (forgetChain s).cancelPend = s.cancelPend := rfl
@[simp] theorem forgetChain_seq : (forgetChain s).seq = s.seq := rfl
@[simp] theorem forgetChain_err : (forgetChain s).err = s.err := rfl
@[simp] theorem forgetChain_outstanding : (forgetChain s).outstanding = s.outstanding := rfl
@[simp] theorem forgetChain_line : (forgetChain s).line = s.line := rfl
@[simp] theorem forgetChain_chain : (forgetChain s).chain = { s.chain with sr := [], creg := [] } := rfl
@[simp] theorem forgetChain_abandoned : (forgetChain s).abandoned = s.abandoned := rfl
@[simp] theorem forgetChain_inFlight : (forgetChain s).inFlight = s.inFlight := rfl
@[simp] theorem forgetChain_trace : (forgetChain s).trace = s.trace := rfl
@[simp] theorem forgetChain_portData : (forgetChain s).portData = s.portData := rfl
@[simp] theorem forgetChain_schedule : (forgetChain s).schedule = s.schedule := rfl
@[simp] theorem forgetChain_draws : (forgetChain s).draws = s.draws := rfl
@[simp] theorem forgetChain_params : (forgetChain s).params = s.params := rfl

/-! ### selectChip -/

@[simp] theorem selectChip_mode (p : Nat) : (selectChip p s).mode = s.mode := rfl
@[simp] theorem selectChip_n (p : Nat) : (selectChip p s).n = s.n := rfl
@[simp] theorem selectChip_w0 (p : Nat) : (selectChip p s).w0 = s.w0 := rfl
@[simp] theorem selectChip_w1 (p : Nat) : (selectChip p s).w1 = s.w1 := rfl
@[simp] theorem selectChip_w2 (p : Nat) : (selectChip p s).w2 = s.w2 := rfl
@[simp] theorem selectChip_buf (p : Nat) : (selectChip p s).buf = s.buf := rfl
@[simp] theorem selectChip_res (p : Nat) : (selectChip p s).res = s.res := rfl
@[simp] theorem selectChip_status (p : Nat) : (selectChip p s).status = s.status := rfl
@[simp] theorem selectChip_errInfo (p : Nat) : (selectChip p s).errInfo = s.errInfo := rfl
@[simp] theorem selectChip_selState (p : Nat) : (selectChip p s).selState = s.selState := rfl
@[simp] theorem selectChip_cancelPend (p : Nat) : (selectChip p s).cancelPend = s.cancelPend := rfl
@[simp] theorem selectChip_seq (p : Nat) : (selectChip p s).seq = s.seq := rfl
@[simp] theorem selectChip_err (p : Nat) : (selectChip p s).err = s.err := rfl
@[simp] theorem selectChip_outstanding (p : Nat) : (selectChip p s).outstanding = s.outstanding := rfl
@[simp] theorem selectChip_line (p : Nat) : (selectChip p s).line = s.line := rfl
@[simp] theorem selectChip_chain (p : Nat) : (selectChip p s).chain = { s.chain with latchPos := p } := rfl
@[simp] theorem selectChip_abandoned (p : Nat) : (selectChip p s).abandoned = s.abandoned := rfl
@[simp] theorem selectChip_inFlight (p : Nat) : (selectChip p s).inFlight = s.inFlight := rfl
@[simp] theorem selectChip_trace (p : Nat) : (selectChip p s).trace = s.trace := rfl
@[simp] theorem selectChip_portData (p : Nat) : (selectChip p s).portData = s.portData := rfl
@[simp] theorem selectChip_schedule (p : Nat) : (selectChip p s).schedule = s.schedule := rfl
@[simp] theorem selectChip_draws (p : Nat) : (selectChip p s).draws = s.draws := rfl
@[simp] theorem selectChip_params (p : Nat) : (selectChip p s).params = s.params := rfl

/-! ### closeFrame -/

@[simp] theorem closeFrame_mode : (closeFrame s).mode = s.mode := rfl
@[simp] theorem closeFrame_n : (closeFrame s).n = s.n := rfl
@[simp] theorem closeFrame_w0 : (closeFrame s).w0 = s.w0 := rfl
@[simp] theorem closeFrame_w1 : (closeFrame s).w1 = s.w1 := rfl
@[simp] theorem closeFrame_w2 : (closeFrame s).w2 = s.w2 := rfl
@[simp] theorem closeFrame_buf : (closeFrame s).buf = s.buf := rfl
@[simp] theorem closeFrame_res : (closeFrame s).res = s.res := rfl
@[simp] theorem closeFrame_status : (closeFrame s).status = s.status := rfl
@[simp] theorem closeFrame_errInfo : (closeFrame s).errInfo = s.errInfo := rfl
@[simp] theorem closeFrame_selState : (closeFrame s).selState = s.selState := rfl
@[simp] theorem closeFrame_cancelPend : (closeFrame s).cancelPend = s.cancelPend := rfl
@[simp] theorem closeFrame_seq : (closeFrame s).seq = s.seq := rfl
@[simp] theorem closeFrame_err : (closeFrame s).err = s.err := rfl
@[simp] theorem closeFrame_outstanding : (closeFrame s).outstanding = s.outstanding := rfl
@[simp] theorem closeFrame_line : (closeFrame s).line = s.line := rfl
@[simp] theorem closeFrame_chain : (closeFrame s).chain = { s.chain with frameOpen := false } := rfl
@[simp] theorem closeFrame_abandoned : (closeFrame s).abandoned = s.abandoned := rfl
@[simp] theorem closeFrame_inFlight : (closeFrame s).inFlight = s.inFlight := rfl
@[simp] theorem closeFrame_trace : (closeFrame s).trace = s.trace := rfl
@[simp] theorem closeFrame_portData : (closeFrame s).portData = s.portData := rfl
@[simp] theorem closeFrame_schedule : (closeFrame s).schedule = s.schedule := rfl
@[simp] theorem closeFrame_draws : (closeFrame s).draws = s.draws := rfl
@[simp] theorem closeFrame_params : (closeFrame s).params = s.params := rfl

/-! ### chainAssertOk -/

@[simp] theorem chainAssertOk_mode : (chainAssertOk s).mode = s.mode := rfl
@[simp] theorem chainAssertOk_n : (chainAssertOk s).n = s.n := rfl
@[simp] theorem chainAssertOk_w0 : (chainAssertOk s).w0 = s.w0 := rfl
@[simp] theorem chainAssertOk_w1 : (chainAssertOk s).w1 = s.w1 := rfl
@[simp] theorem chainAssertOk_w2 : (chainAssertOk s).w2 = s.w2 := rfl
@[simp] theorem chainAssertOk_buf : (chainAssertOk s).buf = s.buf := rfl
@[simp] theorem chainAssertOk_res : (chainAssertOk s).res = s.res := rfl
@[simp] theorem chainAssertOk_status : (chainAssertOk s).status = s.status := rfl
@[simp] theorem chainAssertOk_errInfo : (chainAssertOk s).errInfo = s.errInfo := rfl
@[simp] theorem chainAssertOk_selState : (chainAssertOk s).selState = s.selState := rfl
@[simp] theorem chainAssertOk_cancelPend : (chainAssertOk s).cancelPend = s.cancelPend := rfl
@[simp] theorem chainAssertOk_seq : (chainAssertOk s).seq = s.seq := rfl
@[simp] theorem chainAssertOk_err : (chainAssertOk s).err = s.err := rfl
@[simp] theorem chainAssertOk_outstanding : (chainAssertOk s).outstanding = s.outstanding := rfl
@[simp] theorem chainAssertOk_line : (chainAssertOk s).line = s.line := rfl
@[simp] theorem chainAssertOk_chain : (chainAssertOk s).chain =
    { s.chain with frameOpen := true, cnt := 0, bad := false, stale := owedBytes s.abandoned } := rfl
@[simp] theorem chainAssertOk_abandoned : (chainAssertOk s).abandoned = s.abandoned := rfl
@[simp] theorem chainAssertOk_inFlight : (chainAssertOk s).inFlight = s.inFlight := rfl
@[simp] theorem chainAssertOk_trace : (chainAssertOk s).trace = s.trace := rfl
@[simp] theorem chainAssertOk_portData : (chainAssertOk s).portData = s.portData := rfl
@[simp] theorem chainAssertOk_schedule : (chainAssertOk s).schedule = s.schedule := rfl
@[simp] theorem chainAssertOk_draws : (chainAssertOk s).draws = s.draws := rfl
@[simp] theorem chainAssertOk_params : (chainAssertOk s).params = s.params := rfl

/-! ### chainAssertErr -/

@[simp] theorem chainAssertErr_mode : (chainAssertErr s).mode = s.mode := rfl
@[simp] theorem chainAssertErr_n : (chainAssertErr s).n = s.n := rfl
@[simp] theorem chainAssertErr_w0 : (chainAssertErr s).w0 = s.w0 := rfl
@[simp] theorem chainAssertErr_w1 : (chainAssertErr s).w1 = s.w1 := rfl
@[simp] theorem chainAssertErr_w2 : (chainAssertErr s).w2 = s.w2 := rfl
@[simp] theorem chainAssertErr_buf : (chainAssertErr s).buf = s.buf := rfl
@[simp] theorem chainAssertErr_res : (chainAssertErr s).res = s.res := rfl
@[simp] theorem chainAssertErr_status : (chainAssertErr s).status = s.status := rfl
@[simp] theorem chainAssertErr_errInfo : (chainAssertErr s).errInfo = s.errInfo := rfl
@[simp] theorem chainAssertErr_selState : (chainAssertErr s).selState = s.selState := rfl
@[simp] theorem chainAssertErr_cancelPend : (chainAssertErr s).cancelPend = s.cancelPend := rfl
@[simp] theorem chainAssertErr_seq : (chainAssertErr s).seq = s.seq := rfl
@[simp] theorem chainAssertErr_err : (chainAssertErr s).err = s.err := rfl
@[simp] theorem chainAssertErr_outstanding : (chainAssertErr s).outstanding = s.outstanding := rfl
@[simp] theorem chainAssertErr_line : (chainAssertErr s).line = s.line := rfl
@[simp] theorem chainAssertErr_chain : (chainAssertErr s).chain = { s.chain with frameOpen := true, bad := true } := rfl
@[simp] theorem chainAssertErr_abandoned : (chainAssertErr s).abandoned = s.abandoned := rfl
@[simp] theorem chainAssertErr_inFlight : (chainAssertErr s).inFlight = s.inFlight := rfl
@[simp] theorem chainAssertErr_trace : (chainAssertErr s).trace = s.trace := rfl
@[simp] theorem chainAssertErr_portData : (chainAssertErr s).portData = s.portData := rfl
@[simp] theorem chainAssertErr_schedule : (chainAssertErr s).schedule = s.schedule := rfl
@[simp] theorem chainAssertErr_draws : (chainAssertErr s).draws = s.draws := rfl
@[simp] theorem chainAssertErr_params : (chainAssertErr s).params = s.params := rfl

/-! ### chainDeassertErr -/

@[simp] theorem chainDeassertErr_mode : (chainDeassertErr s).mode = s.mode := rfl
@[simp] theorem chainDeassertErr_n : (chainDeassertErr s).n = s.n := rfl
@[simp] theorem chainDeassertErr_w0 : (chainDeassertErr s).w0 = s.w0 := rfl
@[simp] theorem chainDeassertErr_w1 : (chainDeassertErr s).w1 = s.w1 := rfl
@[simp] theorem chainDeassertErr_w2 : (chainDeassertErr s).w2 = s.w2 := rfl
@[simp] theorem chainDeassertErr_buf : (chainDeassertErr s).buf = s.buf := rfl
@[simp] theorem chainDeassertErr_res : (chainDeassertErr s).res = s.res := rfl
@[simp] theorem chainDeassertErr_status : (chainDeassertErr s).status = s.status := rfl
@[simp] theorem chainDeassertErr_errInfo : (chainDeassertErr s).errInfo = s.errInfo := rfl
@[simp] theorem chainDeassertErr_selState : (chainDeassertErr s).selState = s.selState := rfl
@[simp] theorem chainDeassertErr_cancelPend : (chainDeassertErr s).cancelPend = s.cancelPend := rfl
@[simp] theorem chainDeassertErr_seq : (chainDeassertErr s).seq = s.seq := rfl
@[simp] theorem chainDeassertErr_err : (chainDeassertErr s).err = s.err := rfl
@[simp] theorem chainDeassertErr_outstanding : (chainDeassertErr s).outstanding = s.outstanding := rfl
@[simp] theorem chainDeassertErr_line : (chainDeassertErr s).line = s.line := rfl
@[simp] theorem chainDeassertErr_chain : (chainDeassertErr s).chain = { s.chain with sr := [], creg := [], bad := true } := rfl
@[simp] theorem chainDeassertErr_abandoned : (chainDeassertErr s).abandoned = s.abandoned := rfl
@[simp] theorem chainDeassertErr_inFlight : (chainDeassertErr s).inFlight = s.inFlight := rfl
@[simp] theorem chainDeassertErr_trace : (chainDeassertErr s).trace = s.trace := rfl
@[simp] theorem chainDeassertErr_portData : (chainDeassertErr s).portData = s.portData := rfl
@[simp] theorem chainDeassertErr_schedule : (chainDeassertErr s).schedule = s.schedule := rfl
@[simp] theorem chainDeassertErr_draws : (chainDeassertErr s).draws = s.draws := rfl
@[simp] theorem chainDeassertErr_params : (chainDeassertErr s).params = s.params := rfl

/-! ### driveLine -/

@[simp] theorem driveLine_mode (l : Sel) (a : Answer) : (driveLine l a s).mode = s.mode := rfl
@[simp] theorem driveLine_n (l : Sel) (a : Answer) : (driveLine l a s).n = s.n := rfl
@[simp] theorem driveLine_w0 (l : Sel) (a : Answer) : (driveLine l a s).w0 = s.w0 := rfl
@[simp] theorem driveLine_w1 (l : Sel) (a : Answer) : (driveLine l a s).w1 = s.w1 := rfl
@[simp] theorem driveLine_w2 (l : Sel) (a : Answer) : (driveLine l a s).w2 = s.w2 := rfl
@[simp] theorem driveLine_buf (l : Sel) (a : Answer) : (driveLine l a s).buf = s.buf := rfl
@[simp] theorem driveLine_res (l : Sel) (a : Answer) : (driveLine l a s).res = s.res := rfl
@[simp] theorem driveLine_status (l : Sel) (a : Answer) : (driveLine l a s).status = s.status := rfl
@[simp] theorem driveLine_errInfo (l : Sel) (a : Answer) : (driveLine l a s).errInfo = s.errInfo := rfl
@[simp] theorem driveLine_selState (l : Sel) (a : Answer) : (driveLine l a s).selState = s.selState := rfl
@[simp] theorem driveLine_cancelPend (l : Sel) (a : Answer) : (driveLine l a s).cancelPend = s.cancelPend := rfl
@[simp] theorem driveLine_seq (l : Sel) (a : Answer) : (driveLine l a s).seq = s.seq := rfl
@[simp] theorem driveLine_err (l : Sel) (a : Answer) : (driveLine l a s).err = s.err := rfl
@[simp] theorem driveLine_outstanding (l : Sel) (a : Answer) : (driveLine l a s).outstanding = s.outstanding := rfl
@[simp] theorem driveLine_line (l : Sel) (a : Answer) : (driveLine l a s).line = lineAfter l a := rfl
@[simp] theorem driveLine_chain (l : Sel) (a : Answer) : (driveLine l a s).chain = s.chain := rfl
@[simp] theorem driveLine_abandoned (l : Sel) (a : Answer) : (driveLine l a s).abandoned = s.abandoned := rfl
@[simp] theorem driveLine_inFlight (l : Sel) (a : Answer) : (driveLine l a s).inFlight = s.inFlight := rfl
@[simp] theorem driveLine_trace (l : Sel) (a : Answer) : (driveLine l a s).trace = s.trace := rfl
@[simp] theorem driveLine_portData (l : Sel) (a : Answer) : (driveLine l a s).portData = s.portData := rfl
@[simp] theorem driveLine_schedule (l : Sel) (a : Answer) : (driveLine l a s).schedule = s.schedule := rfl
@[simp] theorem driveLine_draws (l : Sel) (a : Answer) : (driveLine l a s).draws = s.draws := rfl
@[simp] theorem driveLine_params (l : Sel) (a : Answer) : (driveLine l a s).params = s.params := rfl

/-! ### failFrame -/

@[simp] theorem failFrame_mode (c : Completion) (f : Nat) : (failFrame c f s).mode = s.mode := rfl
@[simp] theorem failFrame_n (c : Completion) (f : Nat) : (failFrame c f s).n = s.n := rfl
@[simp] theorem failFrame_w0 (c : Completion) (f : Nat) : (failFrame c f s).w0 = s.w0 := rfl
@[simp] theorem failFrame_w1 (c : Completion) (f : Nat) : (failFrame c f s).w1 = s.w1 := rfl
@[simp] theorem failFrame_w2 (c : Completion) (f : Nat) : (failFrame c f s).w2 = s.w2 := rfl
@[simp] theorem failFrame_buf (c : Completion) (f : Nat) : (failFrame c f s).buf = s.buf := rfl
@[simp] theorem failFrame_res (c : Completion) (f : Nat) : (failFrame c f s).res = s.res := rfl
@[simp] theorem failFrame_status (c : Completion) (f : Nat) : (failFrame c f s).status = s.status := rfl
@[simp] theorem failFrame_errInfo (c : Completion) (f : Nat) : (failFrame c f s).errInfo = s.errInfo := rfl
@[simp] theorem failFrame_selState (c : Completion) (f : Nat) : (failFrame c f s).selState = s.selState := rfl
@[simp] theorem failFrame_cancelPend (c : Completion) (f : Nat) : (failFrame c f s).cancelPend = s.cancelPend := rfl
@[simp] theorem failFrame_seq (c : Completion) (f : Nat) : (failFrame c f s).seq = .release f := rfl
@[simp] theorem failFrame_err (c : Completion) (f : Nat) : (failFrame c f s).err = latchError s.err c := rfl
@[simp] theorem failFrame_outstanding (c : Completion) (f : Nat) : (failFrame c f s).outstanding = s.outstanding := rfl
@[simp] theorem failFrame_line (c : Completion) (f : Nat) : (failFrame c f s).line = s.line := rfl
@[simp] theorem failFrame_chain (c : Completion) (f : Nat) : (failFrame c f s).chain = s.chain := rfl
@[simp] theorem failFrame_abandoned (c : Completion) (f : Nat) : (failFrame c f s).abandoned = s.abandoned := rfl
@[simp] theorem failFrame_inFlight (c : Completion) (f : Nat) : (failFrame c f s).inFlight = s.inFlight := rfl
@[simp] theorem failFrame_trace (c : Completion) (f : Nat) : (failFrame c f s).trace = s.trace := rfl
@[simp] theorem failFrame_portData (c : Completion) (f : Nat) : (failFrame c f s).portData = s.portData := rfl
@[simp] theorem failFrame_schedule (c : Completion) (f : Nat) : (failFrame c f s).schedule = s.schedule := rfl
@[simp] theorem failFrame_draws (c : Completion) (f : Nat) : (failFrame c f s).draws = s.draws := rfl
@[simp] theorem failFrame_params (c : Completion) (f : Nat) : (failFrame c f s).params = s.params := rfl

/-! ### beginAcceptance -/

@[simp] theorem beginAcceptance_mode : (beginAcceptance s).mode = s.mode := rfl
@[simp] theorem beginAcceptance_n : (beginAcceptance s).n = s.n := rfl
@[simp] theorem beginAcceptance_w0 : (beginAcceptance s).w0 = s.w0 := rfl
@[simp] theorem beginAcceptance_w1 : (beginAcceptance s).w1 = s.w1 := rfl
@[simp] theorem beginAcceptance_w2 : (beginAcceptance s).w2 = s.w2 := rfl
@[simp] theorem beginAcceptance_buf : (beginAcceptance s).buf = s.buf := rfl
@[simp] theorem beginAcceptance_res : (beginAcceptance s).res = s.res := rfl
@[simp] theorem beginAcceptance_status : (beginAcceptance s).status = s.status := rfl
@[simp] theorem beginAcceptance_errInfo : (beginAcceptance s).errInfo = s.errInfo := rfl
@[simp] theorem beginAcceptance_selState : (beginAcceptance s).selState = s.selState := rfl
@[simp] theorem beginAcceptance_cancelPend : (beginAcceptance s).cancelPend = s.cancelPend := rfl
@[simp] theorem beginAcceptance_seq : (beginAcceptance s).seq = s.seq := rfl
@[simp] theorem beginAcceptance_err : (beginAcceptance s).err = none := rfl
@[simp] theorem beginAcceptance_outstanding : (beginAcceptance s).outstanding = s.outstanding := rfl
@[simp] theorem beginAcceptance_line : (beginAcceptance s).line = s.line := rfl
@[simp] theorem beginAcceptance_chain : (beginAcceptance s).chain = s.chain := rfl
@[simp] theorem beginAcceptance_abandoned : (beginAcceptance s).abandoned = s.abandoned := rfl
@[simp] theorem beginAcceptance_inFlight : (beginAcceptance s).inFlight = s.inFlight := rfl
@[simp] theorem beginAcceptance_trace : (beginAcceptance s).trace = s.trace := rfl
@[simp] theorem beginAcceptance_portData : (beginAcceptance s).portData = s.portData := rfl
@[simp] theorem beginAcceptance_schedule : (beginAcceptance s).schedule = s.schedule := rfl
@[simp] theorem beginAcceptance_draws : (beginAcceptance s).draws = s.draws + 1 := rfl
@[simp] theorem beginAcceptance_params : (beginAcceptance s).params = s.params := rfl

/-! ### resetBlock -/

@[simp] theorem resetBlock_mode : (resetBlock s).mode = .unconfigured := rfl
@[simp] theorem resetBlock_n : (resetBlock s).n = 0 := rfl
@[simp] theorem resetBlock_w0 : (resetBlock s).w0 = 0 := rfl
@[simp] theorem resetBlock_w1 : (resetBlock s).w1 = 0 := rfl
@[simp] theorem resetBlock_w2 : (resetBlock s).w2 = 0 := rfl
@[simp] theorem resetBlock_buf : (resetBlock s).buf = [] := rfl
@[simp] theorem resetBlock_res : (resetBlock s).res = Matrix8.zero := rfl
@[simp] theorem resetBlock_status : (resetBlock s).status = .ok := rfl
@[simp] theorem resetBlock_errInfo : (resetBlock s).errInfo = .transport 0 := rfl
@[simp] theorem resetBlock_selState : (resetBlock s).selState = .deasserted := rfl
@[simp] theorem resetBlock_cancelPend : (resetBlock s).cancelPend = false := rfl
@[simp] theorem resetBlock_seq : (resetBlock s).seq = .idle := rfl
@[simp] theorem resetBlock_err : (resetBlock s).err = none := rfl
@[simp] theorem resetBlock_outstanding : (resetBlock s).outstanding = none := rfl
@[simp] theorem resetBlock_line : (resetBlock s).line = s.line := rfl
@[simp] theorem resetBlock_chain : (resetBlock s).chain = { s.chain with chips := if s.mode = .unconfigured then s.chain.chips else some (chainLength s) } := rfl
@[simp] theorem resetBlock_abandoned : (resetBlock s).abandoned = s.abandoned ++ s.outstanding.toList := rfl
@[simp] theorem resetBlock_inFlight : (resetBlock s).inFlight = none := rfl
@[simp] theorem resetBlock_trace : (resetBlock s).trace = s.trace := rfl
@[simp] theorem resetBlock_portData : (resetBlock s).portData = s.portData := rfl
@[simp] theorem resetBlock_schedule : (resetBlock s).schedule = s.schedule := rfl
@[simp] theorem resetBlock_draws : (resetBlock s).draws = s.draws := rfl
@[simp] theorem resetBlock_params : (resetBlock s).params = s.params := rfl

end Sys2Proof.Machine
end

