-- ==== Sys2Proof/Laws/Operations.lean ====
section
/-! SUPPORT. One lemma per shared operation that says once everything it can do, for the provers to cite instead of
unfolding it. -/

namespace Sys2Proof.Machine

/-! ### Going on -/

theorem andThen_eq_next {r : Result} {f : State → Result} {t : State} (h : andThen r f = .next t) :
    ∃ u, r = .next u ∧ f u = .next t := by
  cases r with
  | next u => exact ⟨u, rfl, h⟩
  | fault e => cases h
  | refused e => cases h

@[simp] theorem andThen_next (u : State) (f : State → Result) : andThen (.next u) f = f u := rfl

/-! ### The acceptance of commands -/

/-- `acceptFrames` always goes on, in one of four ways. -/
theorem acceptFrames_cases (i : Instr) (e : Option Completion) (s : State) :
    (s.mode = .busy ∧ acceptFrames i e s = .next s) ∨
    (s.mode = .unconfigured ∧ acceptFrames i e s = .next (endCommand .configError s)) ∨
    (s.mode = .idle ∧ ∃ c, e = some c ∧ acceptFrames i e s = .next (endCommand c s)) ∨
    (s.mode = .idle ∧ e = none ∧ acceptFrames i e s = .next (beginFrames i s)) := by
  unfold acceptFrames
  cases hm : s.mode with
  | busy => exact .inl ⟨rfl, rfl⟩
  | unconfigured => exact .inr (.inl ⟨rfl, rfl⟩)
  | idle =>
    cases e with
    | none => exact .inr (.inr (.inr ⟨rfl, rfl, rfl⟩))
    | some c => exact .inr (.inr (.inl ⟨rfl, c, rfl, rfl⟩))

/-- What WRITE_LINE's checks found, where they found nothing. -/
theorem writeLineError_eq_none {line n : Byte} {payload : List Byte} (h : writeLineError line payload n = none) :
    line.toNat ≤ 7 ∧ payload.length = n.toNat := by
  unfold writeLineError at h
  split at h
  · cases h
  · split at h
    · cases h
    · exact ⟨by omega, by omega⟩

/-- What WRITE_DEVICE's check found, where it found nothing. -/
theorem writeDeviceError_eq_none {dev n : Byte} (h : writeDeviceError dev n = none) : dev.toNat < n.toNat := by
  unfold writeDeviceError at h
  split at h
  · cases h
  · omega

/-- The instructions a descriptor can spell: the eight commands (rule R73). -/
def isCommand (i : Instr) : Prop := ∀ r data, i ≠ pairInstr r data

theorem isCommand_of_decodeDescriptor {bufMax : Nat} {buf : Nat → Byte} {w0 w1 w2 : Word32} {i : Instr}
    (h : decodeDescriptor bufMax buf w0 w1 w2 = .ok i) : isCommand i := by
  unfold decodeDescriptor at h
  intro r data hi
  subst hi
  repeat' split at h
  all_goals first
    | cases h
    | (cases r <;> cases h)

/-- How a command that a block not BUSY accepts can begin (rule R106): it ends at once with an error that carries no
value, or it sends frames, or it is a CONFIGURE or a ROTATE that succeeds. -/
inductive Accepted (i : Instr) (s : State) : State → Prop where
  | error (c : Completion) (plain : ∀ e, c ≠ .transportError e ∧ c ≠ .signalError e) (notOk : c ≠ .ok) :
      Accepted i s (endCommand c s)
  | frames (idle : s.mode = .idle) (fits : commandFits s.n i) : Accepted i s (beginFrames i s)
  | configured (n : Byte) (is : i = .configure n) (fresh : s.mode = .unconfigured) (low : 1 ≤ n.toNat)
      (high : n.toNat ≤ s.params.nMax) : Accepted i s (endCommand .ok { s with n := n, mode := .idle })
  | rotated (m : Matrix8) (is : i = .rotate m) : Accepted i s (endCommand .ok { s with res := rot m })

theorem accepted_of_acceptFrames {i : Instr} {e : Option Completion} {s : State} (hm : s.mode ≠ .busy)
    (he : ∀ c, e = some c → (∀ v, c ≠ .transportError v ∧ c ≠ .signalError v) ∧ c ≠ .ok)
    (hf : e = none → commandFits s.n i) : ∃ t, acceptFrames i e s = .next t ∧ Accepted i s t := by
  rcases acceptFrames_cases i e s with ⟨h, -⟩ | ⟨-, h⟩ | ⟨-, c, hc, h⟩ | ⟨h0, h1, h⟩
  · exact absurd h hm
  · exact ⟨_, h, .error _ (by simp) (by simp)⟩
  · exact ⟨_, h, .error _ (he c hc).1 (he c hc).2⟩
  · exact ⟨_, h, .frames h0 (hf h1)⟩

/-- Every command goes on, in one of the ways above. -/
theorem exec_accepted {i : Instr} {s : State} (hi : isCommand i) (hm : s.mode ≠ .busy) :
    ∃ t, exec i s = .next t ∧ Accepted i s t := by
  have noError : ∀ c, (none : Option Completion) = some c → (∀ v, c ≠ .transportError v ∧ c ≠ .signalError v) ∧ c ≠ .ok :=
    fun c h => by cases h
  cases i with
  | configure n =>
    simp only [exec, execConfigure]
    cases h : s.mode with
    | busy => exact absurd h hm
    | idle => exact ⟨_, rfl, .error _ (by simp) (by simp)⟩
    | unconfigured =>
      simp only
      split
      · rename_i hl
        simp only [lengthAllowed, Bool.and_eq_true, decide_eq_true_eq] at hl
        exact ⟨_, rfl, .configured n rfl h hl.1 hl.2⟩
      · exact ⟨_, rfl, .error _ (by simp) (by simp)⟩
  | bcastCmd reg data => exact accepted_of_acceptFrames hm noError fun _ => by simp [commandFits, frameCount]
  | clear => exact accepted_of_acceptFrames hm noError fun _ => by simp [commandFits, frameCount]
  | bcastRaw reg data => exact accepted_of_acceptFrames hm noError fun _ => by simp [commandFits, frameCount]
  | writeLine line payload =>
    refine accepted_of_acceptFrames hm (fun c h => ?_) fun h => ?_
    · unfold writeLineError at h
      repeat' split at h
      all_goals cases h
      all_goals simp
    · obtain ⟨h1, h2⟩ := writeLineError_eq_none h
      simp [commandFits, frameCount]
      omega
  | writeDevice dev reg data =>
    refine accepted_of_acceptFrames hm (fun c h => ?_) fun h => ?_
    · unfold writeDeviceError at h
      split at h
      all_goals cases h
      simp
    · have := writeDeviceError_eq_none h
      simp [commandFits, frameCount]
      omega
  | renderText text x => exact accepted_of_acceptFrames hm noError fun _ => by simp [commandFits, frameCount]
  | rotate m =>
    refine ⟨endCommand .ok { s with res := rot m }, ?_, .rotated m rfl⟩
    simp only [exec, execRotate]
    split
    · exact absurd ‹_› hm
    · rfl
    · rfl
  | pairNoop d => exact absurd rfl (hi .noop d)
  | pairRow0 d => exact absurd rfl (hi .row0 d)
  | pairRow1 d => exact absurd rfl (hi .row1 d)
  | pairRow2 d => exact absurd rfl (hi .row2 d)
  | pairRow3 d => exact absurd rfl (hi .row3 d)
  | pairRow4 d => exact absurd rfl (hi .row4 d)
  | pairRow5 d => exact absurd rfl (hi .row5 d)
  | pairRow6 d => exact absurd rfl (hi .row6 d)
  | pairRow7 d => exact absurd rfl (hi .row7 d)
  | pairDecodeMode d => exact absurd rfl (hi .decodeMode d)
  | pairIntensity d => exact absurd rfl (hi .intensity d)
  | pairScanLimit d => exact absurd rfl (hi .scanLimit d)
  | pairOnOff d => exact absurd rfl (hi .onOff d)
  | pairDisplayTest d => exact absurd rfl (hi .displayTest d)

/-- `START` always goes on: nothing while BUSY, IllegalCommand, or the command begins. -/
theorem startCommand_cases (s : State) :
    (s.mode = .busy ∧ startCommand s = .next s) ∨
    (s.mode ≠ .busy ∧ (∃ e, fetchCommand s = .error e) ∧
      startCommand s = .next (endCommand .illegalCommand (beginAcceptance s))) ∨
    (s.mode ≠ .busy ∧ ∃ i t, fetchCommand s = .ok i ∧ startCommand s = .next t ∧ Accepted i (beginAcceptance s) t) := by
  unfold startCommand
  by_cases hm : s.mode = .busy
  · exact .inl ⟨hm, by simp [hm]⟩
  · simp only [hm, if_false]
    cases hf : fetchCommand s with
    | error e => exact .inr (.inl ⟨hm, ⟨e, rfl⟩, rfl⟩)
    | ok i =>
      obtain ⟨t, ht, ha⟩ := exec_accepted (s := beginAcceptance s) (isCommand_of_decodeDescriptor hf) hm
      exact .inr (.inr ⟨hm, i, t, rfl, ht, ha⟩)

/-! ### The chips -/

/-- What an operation on the chips may touch: the cells, and which chip was named. -/
abbrev onlyCells (s t : State) : Prop :=
  t = { s with chain := { s.chain with creg := t.chain.creg, latchPos := t.chain.latchPos } }

/-- A pair at a chip always goes on, and touches only that chip's cells. -/
theorem exec_pairInstr (r : Register) (data : Byte) (s : State) :
    ∃ t, exec (pairInstr r data) s = .next t ∧ onlyCells s t ∧
      (s.chain.creg.wf → t.chain.creg.wf) ∧
      ∀ p code, p ≠ s.chain.latchPos → chipCell t p code = chipCell s p code := by
  have forgets : ∃ t, (Host.Outcome.next (forgetChip s.chain.latchPos s) : Result) = .next t ∧ onlyCells s t ∧
      (s.chain.creg.wf → t.chain.creg.wf) ∧
      ∀ p code, p ≠ s.chain.latchPos → chipCell t p code = chipCell s p code :=
    ⟨_, rfl, rfl, fun h => Memory.wf_forget h (fun a => a / 256 == s.chain.latchPos), fun p code h => by rw [chipCell_forgetChip, if_neg h]⟩
  have stores : ∀ c : Byte, ∃ t, (Host.Outcome.next (latchCell c data s) : Result) = .next t ∧ onlyCells s t ∧
      (s.chain.creg.wf → t.chain.creg.wf) ∧
      ∀ p code, p ≠ s.chain.latchPos → chipCell t p code = chipCell s p code := fun c =>
    ⟨_, rfl, rfl, fun h => Memory.wf_write h _ _, fun p code h => chipCell_writeChipCell_other _ _ (fun e => h e.1)⟩
  cases r
  case noop =>
    simp only [pairInstr, exec, execPairNoop]
    split
    · exact ⟨s, rfl, rfl, id, fun _ _ _ => rfl⟩
    · split
      · exact ⟨s, rfl, rfl, id, fun _ _ _ => rfl⟩
      · exact forgets
    · exact forgets
  all_goals exact stores _

/-- A register code the source names, but the no-op's: the chip stores the data byte there. -/
theorem exec_pairInstr_stores {r : Register} (hr : r ≠ .noop) (data : Byte) (s : State) :
    exec (pairInstr r data) s = .next (latchCell r.code data s) := by
  cases r
  case noop => exact absurd rfl hr
  all_goals rfl

/-- A latching chip always goes on, and touches only its own cells. -/
theorem latchChip_next (p : Nat) (s : State) :
    ∃ t, latchChip p s = .next t ∧ onlyCells s t ∧ (s.chain.creg.wf → t.chain.creg.wf) ∧
      ∀ q code, q ≠ p → chipCell t q code = chipCell s q code := by
  have forgets : ∃ t, (Host.Outcome.next (forgetChip p s) : Result) = .next t ∧ onlyCells s t ∧
      (s.chain.creg.wf → t.chain.creg.wf) ∧ ∀ q code, q ≠ p → chipCell t q code = chipCell s q code :=
    ⟨_, rfl, rfl, fun h => Memory.wf_forget h (fun a => a / 256 == p), fun q code h => by rw [chipCell_forgetChip, if_neg h]⟩
  unfold latchChip
  split
  · exact forgets
  · rename_i w _
    unfold decodePair
    cases Register.ofCode (pairReg w) with
    | none => exact forgets
    | some r =>
      obtain ⟨t, ht, hf, hw, hc⟩ := exec_pairInstr r (pairData w) (selectChip p s)
      refine ⟨t, ht, ?_, hw, fun q code h => hc q code h⟩
      rw [onlyCells] at hf ⊢
      exact hf

/-- Chips that latch one after another always go on. Each touches only its own cells: a chip named once in the list ends
as if it alone had latched, one not named keeps its cells. -/
theorem latchChips_next (ps : List Nat) (s : State) (hnd : ps.Nodup) :
    ∃ t, latchChips ps s = .next t ∧ onlyCells s t ∧ (s.chain.creg.wf → t.chain.creg.wf) ∧
      (∀ q code, q ∉ ps → chipCell t q code = chipCell s q code) ∧
      ∀ q ∈ ps, ∃ u v, onlyCells s u ∧ (∀ code, chipCell u q code = chipCell s q code) ∧
        latchChip q u = .next v ∧ ∀ code, chipCell t q code = chipCell v q code := by
  induction ps generalizing s with
  | nil => exact ⟨s, rfl, rfl, id, fun _ _ _ => rfl, fun q hq => by cases hq⟩
  | cons p ps ih =>
    obtain ⟨hp, hnd⟩ := List.nodup_cons.1 hnd
    obtain ⟨u, hu, huf, huw, huc⟩ := latchChip_next p s
    obtain ⟨t, ht, htf, htw, htn, hti⟩ := ih u hnd
    have frame : ∀ v, onlyCells u v → onlyCells s v := fun v hv => by
      rw [onlyCells] at hv huf ⊢
      rw [hv, huf]
    refine ⟨t, by rw [latchChips, hu]; exact ht, frame t htf, htw ∘ huw, fun q code hq => ?_, fun q hq => ?_⟩
    · rw [List.mem_cons, not_or] at hq
      rw [htn q code hq.2, huc q code hq.1]
    · rcases List.mem_cons.1 hq with rfl | hq
      · exact ⟨s, u, rfl, fun _ => rfl, hu, fun code => htn q code hp⟩
      · obtain ⟨a, b, ha, hac, hb, hbc⟩ := hti q hq
        refine ⟨a, b, frame a ha, fun code => ?_, hb, hbc⟩
        rw [hac code, huc q code (fun h => hp (h ▸ hq))]

/-- What the environment may touch: the line and the chips. -/
abbrev onlyOutside (s t : State) : Prop := t = { s with line := t.line, chain := t.chain }

/-- An answered request always goes on, and touches only the line and the chips. -/
theorem environmentAnswer_next (r : Request) (a : Answer) (s : State) :
    ∃ t, environmentAnswer r a s = .next t ∧ onlyOutside s t ∧ t.chain.chips = s.chain.chips ∧
      (s.chain.creg.wf → t.chain.creg.wf) ∧ (r ≠ .sel .deassert → t.chain.creg = s.chain.creg) := by
  cases r with
  | tx b =>
    cases a with
    | ok =>
      by_cases h : s.chain.frameOpen = true
      · exact ⟨_, rfl, by simp [chainTxOk, h], by simp [chainTxOk, h], by simp [chainTxOk, h], by simp [chainTxOk, h]⟩
      · exact ⟨_, rfl, by simp [chainTxOk, h], by simp [chainTxOk, h], by simp [chainTxOk, h], by simp [chainTxOk, h]⟩
    | err e =>
      by_cases h : s.chain.frameOpen = true
      · exact ⟨_, rfl, by simp [chainTxErr, h], by simp [chainTxErr, h], by simp [chainTxErr, h], by simp [chainTxErr, h]⟩
      · exact ⟨_, rfl, by simp [chainTxErr, h], by simp [chainTxErr, h], by simp [chainTxErr, h], by simp [chainTxErr, h]⟩
  | sel l =>
    cases l with
    | assert => cases a <;> exact ⟨_, rfl, rfl, rfl, id, fun _ => rfl⟩
    | deassert =>
      cases a with
      | err e => exact ⟨_, rfl, rfl, rfl, fun _ => List.Pairwise.nil, fun h => absurd rfl h⟩
      | ok =>
        simp only [environmentAnswer, chainDeassertOk]
        split
        · obtain ⟨t, ht, hf, hw, -, -⟩ :=
            latchChips_next (List.range (chainLength (driveLine .deassert .ok s)))
              (closeFrame (driveLine .deassert .ok s)) List.nodup_range
          refine ⟨t, ht, ?_, ?_, hw, fun h => absurd rfl h⟩ <;> rw [onlyCells] at hf <;> rw [hf] <;> rfl
        · exact ⟨_, rfl, rfl, rfl, fun _ => List.Pairwise.nil, fun h => absurd rfl h⟩

@[simp] theorem lateAnswer_sel (l : Sel) (a : Answer) (s : State) :
    lateAnswer (.sel l) a s = environmentAnswer (.sel l) a s := rfl

/-- The answer to an abandoned request, too, always goes on and touches only the line and the chips; the chips' registers
only where it is a deassert. -/
theorem lateAnswer_next (r : Request) (a : Answer) (s : State) :
    ∃ t, lateAnswer r a s = .next t ∧ onlyOutside s t ∧ t.chain.chips = s.chain.chips ∧
      (s.chain.creg.wf → t.chain.creg.wf) ∧ (r ≠ .sel .deassert → t.chain.creg = s.chain.creg) := by
  cases r with
  | sel l => exact environmentAnswer_next (.sel l) a s
  | tx b =>
    simp only [lateAnswer]
    split
    · exact environmentAnswer_next (.tx b) a s
    · cases a <;> exact ⟨_, rfl, rfl, rfl, id, fun _ => rfl⟩

/-! ### The sequencer -/

/-- What the sequencer's own step can do. -/
inductive SequencerMoved (s : State) : State → Prop where
  | rests (idle : sequencerEnabled s = false) : SequencerMoved s s
  | cancelled (f : Nat) (at_ : s.seq = .assert f) (pending : s.cancelPend = true) :
      SequencerMoved s (endCommand .cancelled { s with err := latchError s.err .cancelled })
  | asserts (f : Nat) (at_ : s.seq = .assert f) (go : s.cancelPend = false) :
      SequencerMoved s (issue (.sel .assert) (.waitAssert f) s)
  | cutShort (f t : Nat) (h : Half) (at_ : s.seq = .byte f t h) (pending : s.cancelPend = true) :
      SequencerMoved s (failFrame .cancelled f s)
  | sends (f t : Nat) (h : Half) (b : Byte) (at_ : s.seq = .byte f t h) (go : s.cancelPend = false)
      (is : frameByte s f t h = some b) : SequencerMoved s (issue (.tx b) (.waitByte f t h) s)
  | releases (f : Nat) (at_ : s.seq = .release f) : SequencerMoved s (issue (.sel .deassert) (.waitRelease f) s)

theorem sequencerStep_cases {s t : State} (h : sequencerStep s = .next t) : SequencerMoved s t := by
  unfold sequencerStep at h
  split at h
  · cases h
    unfold assertStep
    split
    · exact .cancelled _ ‹_› ‹_›
    · exact .asserts _ ‹_› (by simpa using ‹¬ s.cancelPend = true›)
  · unfold byteStep at h
    split at h
    · cases h
      exact .cutShort _ _ _ ‹_› ‹_›
    · split at h
      · cases h
        exact .sends _ _ _ _ ‹_› (by simpa using ‹¬ s.cancelPend = true›) ‹_›
      · cases h
  · cases h
    exact .releases _ ‹_›
  all_goals
    cases h
    exact .rests (by simp [sequencerEnabled, *])

/-- What the block can do with the answer to its own request. -/
inductive BlockTook (a : Answer) (s : State) : State → Prop where
  | nothing (notWaiting : (∀ f, s.seq ≠ .waitAssert f) ∧ (∀ f t h, s.seq ≠ .waitByte f t h) ∧ ∀ f, s.seq ≠ .waitRelease f) :
      BlockTook a s s
  | asserted (f : Nat) (at_ : s.seq = .waitAssert f) (is : a = .ok) :
      BlockTook a s { s with selState := .asserted, seq := .byte f 0 .register }
  | assertFailed (f e : Nat) (at_ : s.seq = .waitAssert f) (is : a = .err e) :
      BlockTook a s (failFrame (.signalError e) f { s with selState := .unknown })
  | sent (f t : Nat) (h : Half) (at_ : s.seq = .waitByte f t h) (is : a = .ok) :
      BlockTook a s { s with seq := afterByte s.n.toNat f t h }
  | sendFailed (f t : Nat) (h : Half) (e : Nat) (at_ : s.seq = .waitByte f t h) (is : a = .err e) :
      BlockTook a s (failFrame (.transportError e) f s)
  | ended (f : Nat) (c : Completion) (at_ : s.seq = .waitRelease f) (first : errAfterRelease s.err a = some c) :
      BlockTook a s (endCommand c { s with selState := selStateAfter .deassert a, err := some c })
  | nextFrame (f count : Nat) (at_ : s.seq = .waitRelease f) (first : errAfterRelease s.err a = none)
      (frames : framesInFlight s = some count) (more : f + 1 < count) :
      BlockTook a s { s with selState := selStateAfter .deassert a, err := none, seq := .assert (f + 1) }
  | endedOk (f count : Nat) (at_ : s.seq = .waitRelease f) (first : errAfterRelease s.err a = none)
      (frames : framesInFlight s = some count) (last : count ≤ f + 1) :
      BlockTook a s (endCommand .ok { s with selState := selStateAfter .deassert a, err := none })

theorem blockAnswer_cases {a : Answer} {s t : State} (h : blockAnswer a s = .next t) : BlockTook a s t := by
  unfold blockAnswer at h
  split at h
  · cases h
    cases a with
    | ok => exact .asserted _ ‹_› rfl
    | err e => exact .assertFailed _ _ ‹_› rfl
  · cases h
    cases a with
    | ok => exact .sent _ _ _ ‹_› rfl
    | err e => exact .sendFailed _ _ _ _ ‹_› rfl
  · unfold releaseAnswered Machine.nextFrame at h
    dsimp only at h
    split at h
    · rename_i c hc
      cases h
      rw [hc]
      exact .ended _ _ ‹_› hc
    · rename_i hc
      split at h
      · cases h
      · rename_i count hcount
        split at h
        · cases h
          rw [hc]
          exact .nextFrame _ count ‹_› hc hcount ‹_›
        · cases h
          rw [hc]
          exact .endedOk _ count ‹_› hc hcount (by omega)
  all_goals
    cases h
    exact .nothing (by simp [*])

/-! ### The collaborators -/

theorem takeOldest_eq_none {c : Collaborator} {rs : List Request} :
    takeOldest c rs = none ↔ ∀ q ∈ rs, requestedOf q ≠ c := by
  induction rs with
  | nil => simp [takeOldest]
  | cons r rs ih => by_cases h : requestedOf r = c <;> simp [takeOldest, h, ih]

/-- The oldest request of a collaborator: none before it goes there, and what is left is the list without it. -/
theorem takeOldest_eq_some {c : Collaborator} {rs : List Request} {r : Request} {others : List Request} :
    takeOldest c rs = some (r, others) ↔ ∃ before after, rs = before ++ r :: after ∧ others = before ++ after ∧
      requestedOf r = c ∧ ∀ q ∈ before, requestedOf q ≠ c := by
  constructor
  · intro h
    induction rs generalizing others with
    | nil => cases h
    | cons q rs ih =>
      unfold takeOldest at h
      split at h
      · cases h
        exact ⟨[], rs, rfl, rfl, ‹_›, by simp⟩
      · obtain ⟨⟨r', left⟩, hl, heq⟩ := Option.map_eq_some_iff.1 h
        cases heq
        obtain ⟨before, after, rfl, rfl, hr, hb⟩ := ih hl
        exact ⟨q :: before, after, rfl, rfl, hr, by simpa [‹requestedOf q ≠ c›] using hb⟩
  · rintro ⟨before, after, rfl, rfl, hr, hb⟩
    induction before with
    | nil => simp [takeOldest, hr]
    | cons q before ih =>
      simp only [List.mem_cons, forall_eq_or_imp] at hb
      simp [takeOldest, hb.1, ih hb.2]

@[simp] theorem owedBytes_nil : owedBytes [] = 0 := rfl

@[simp] theorem owedBytes_append (rs qs : List Request) : owedBytes (rs ++ qs) = owedBytes rs + owedBytes qs :=
  List.countP_append

@[simp] theorem owedBytes_tx (b : Byte) (rs : List Request) : owedBytes (.tx b :: rs) = owedBytes rs + 1 :=
  List.countP_cons_of_pos rfl

@[simp] theorem owedBytes_sel (l : Sel) (rs : List Request) : owedBytes (.sel l :: rs) = owedBytes rs :=
  List.countP_cons_of_neg (by simp [requestedOf])

/-- Where the serial primitive owes no abandoned answer, no byte of the list is owed. -/
theorem owedBytes_eq_zero {rs : List Request} : owedBytes rs = 0 ↔ ∀ q ∈ rs, requestedOf q ≠ .xfer := by
  simp [owedBytes, List.countP_eq_zero]

/-- What an answer turn of a collaborator can do. -/
inductive Answered (c : Collaborator) (a : Answer) (s : State) : State → Prop where
  | discarded (before : List Request) (r : Request) (after : List Request) (t : State)
      (owed : s.abandoned = before ++ r :: after) (its : requestedOf r = c) (oldest : ∀ q ∈ before, requestedOf q ≠ c)
      (outside : lateAnswer r a { s with abandoned := before ++ after } = .next t) : Answered c a s t
  | taken (r : Request) (u t : State) (none_abandoned : ∀ q ∈ s.abandoned, requestedOf q ≠ c)
      (own : s.outstanding = some r) (its : requestedOf r = c)
      (outside : environmentAnswer r a (takeAnswer a s) = .next u) (block : BlockTook a u t) : Answered c a s t
  | nothingOwed (none_abandoned : ∀ q ∈ s.abandoned, requestedOf q ≠ c)
      (none_own : ∀ r, s.outstanding = some r → requestedOf r ≠ c) : Answered c a s s

/-- An abandoned request is answered outside the block only. -/
theorem answerStep_abandoned {s : State} {c : Collaborator} {r : Request} {before after : List Request} (a : Answer)
    (owed : s.abandoned = before ++ r :: after) (its : requestedOf r = c) (oldest : ∀ q ∈ before, requestedOf q ≠ c) :
    answerStep c a s = lateAnswer r a { s with abandoned := before ++ after } := by
  unfold answerStep
  rw [takeOldest_eq_some.2 ⟨before, after, owed, rfl, its, oldest⟩]

/-- The block's own request is answered outside, then taken by the block. -/
theorem answerStep_own {s : State} {c : Collaborator} {r : Request} (a : Answer)
    (h : ∀ q ∈ s.abandoned, requestedOf q ≠ c) (ho : s.outstanding = some r) (its : requestedOf r = c) :
    answerStep c a s = andThen (environmentAnswer r a (takeAnswer a s)) (blockAnswer a) := by
  unfold answerStep
  rw [takeOldest_eq_none.2 h]
  simp only [ho]
  rw [if_pos its]

theorem answerStep_cases {c : Collaborator} {a : Answer} {s t : State} (h : answerStep c a s = .next t) :
    Answered c a s t := by
  unfold answerStep at h
  split at h
  · obtain ⟨before, after, owed, rfl, its, oldest⟩ := takeOldest_eq_some.1 ‹_›
    exact .discarded _ _ _ _ owed its oldest h
  · have none_abandoned := takeOldest_eq_none.1 ‹_›
    split at h
    · split at h
      · obtain ⟨u, hu, hb⟩ := andThen_eq_next h
        exact .taken _ u _ none_abandoned ‹_› ‹_› hu (blockAnswer_cases hb)
      · cases h
        exact .nothingOwed none_abandoned (by simp [*])
    · cases h
      exact .nothingOwed none_abandoned (by simp [*])

/-! ### The host -/

/-- What a turn of the host can do. -/
inductive HostDid (act : HostAction) (s : State) : State → Prop where
  | locked (busy : s.mode = .busy)
      (is : (∃ v, act = .writeW0 v ∨ act = .writeW1 v ∨ act = .writeW2 v) ∨ (∃ a v, act = .writeBuf a v) ∨ act = .start) :
      HostDid act s s
  | wroteW0 (v : Word32) (is : act = .writeW0 v) (free : s.mode ≠ .busy) : HostDid act s { s with w0 := v }
  | wroteW1 (v : Word32) (is : act = .writeW1 v) (free : s.mode ≠ .busy) : HostDid act s { s with w1 := v }
  | wroteW2 (v : Word32) (is : act = .writeW2 v) (free : s.mode ≠ .busy) : HostDid act s { s with w2 := v }
  | wroteBuf (a : Nat) (v : Byte) (is : act = .writeBuf a v) (free : s.mode ≠ .busy) (inside : a < s.params.bufMax) :
      HostDid act s { s with buf := s.buf.write a v }
  | illegal (e : Illegal) (is : act = .start) (free : s.mode ≠ .busy) (why : fetchCommand s = .error e) :
      HostDid act s (endCommand .illegalCommand (beginAcceptance s))
  | accepted (i : Instr) (t : State) (is : act = .start) (free : s.mode ≠ .busy) (spelt : fetchCommand s = .ok i)
      (how : Accepted i (beginAcceptance s) t) : HostDid act s t
  | cancelled (is : act = .cancel) : HostDid act s (raiseCancel s)
  | read (r : PortReg) (is : act = .read r) : HostDid act s { s with portData := some (portRead s r) }
  | wasReset (is : act = .reset) : HostDid act s (resetBlock s)

theorem hostStep_cases {act : HostAction} {s t : State} (h : hostStep act s = .next t) : HostDid act s t := by
  cases act with
  | writeW0 v =>
    simp only [hostStep] at h
    split at h <;> cases h
    · exact .locked ‹_› (.inl ⟨v, .inl rfl⟩)
    · exact .wroteW0 v rfl ‹_›
  | writeW1 v =>
    simp only [hostStep] at h
    split at h <;> cases h
    · exact .locked ‹_› (.inl ⟨v, .inr (.inl rfl)⟩)
    · exact .wroteW1 v rfl ‹_›
  | writeW2 v =>
    simp only [hostStep] at h
    split at h <;> cases h
    · exact .locked ‹_› (.inl ⟨v, .inr (.inr rfl)⟩)
    · exact .wroteW2 v rfl ‹_›
  | writeBuf a v =>
    simp only [hostStep, writeBuf] at h
    split at h
    · cases h
      exact .locked ‹_› (.inr (.inl ⟨a, v, rfl⟩))
    · split at h <;> cases h
      exact .wroteBuf a v rfl ‹_› ‹_›
  | start =>
    rcases startCommand_cases s with ⟨hm, hs⟩ | ⟨hm, ⟨e, he⟩, hs⟩ | ⟨hm, i, u, hi, hs, ha⟩ <;>
      rw [hostStep, hs] at h <;> cases h
    · exact .locked hm (.inr (.inr rfl))
    · exact .illegal e rfl hm he
    · exact .accepted i _ rfl hm hi ha
  | cancel => cases h; exact .cancelled rfl
  | read r => cases h; exact .read r rfl
  | reset => cases h; exact .wasReset rfl

/-- A turn of the host always goes on, but for a write of `BUF` beyond its end. -/
theorem hostStep_stops {act : HostAction} {s : State} (h : ∀ t, hostStep act s ≠ .next t) :
    ∃ a v, act = .writeBuf a v ∧ s.mode ≠ .busy ∧ s.params.bufMax ≤ a ∧ hostStep act s = .fault (.noSuchBufByte a) := by
  cases act with
  | writeW0 v => exact absurd (apply_ite Host.Outcome.next _ _ _).symm (h _)
  | writeW1 v => exact absurd (apply_ite Host.Outcome.next _ _ _).symm (h _)
  | writeW2 v => exact absurd (apply_ite Host.Outcome.next _ _ _).symm (h _)
  | writeBuf a v =>
    simp only [hostStep, writeBuf] at h ⊢
    by_cases hm : s.mode = .busy
    · exact absurd (if_pos hm) (h s)
    · by_cases ha : a < s.params.bufMax
      · exact absurd (by rw [if_neg hm, if_pos ha]) (h { s with buf := s.buf.write a v })
      · exact ⟨a, v, rfl, hm, by omega, by rw [if_neg hm, if_neg ha]⟩
  | start =>
    rcases startCommand_cases s with ⟨-, hs⟩ | ⟨-, -, hs⟩ | ⟨-, i, u, -, hs, -⟩ <;> exact absurd hs (h _)
  | cancel => exact absurd rfl (h _)
  | read r => exact absurd rfl (h _)
  | reset => exact absurd rfl (h _)

/-! ### One step -/

/-- What a step can do: the schedule's turn, or, where it gives none, a move of the sequencer, a free answer, or
nothing. -/
inductive Stepped (s : State) : State → Prop where
  | host (act : HostAction) (rest : List Turn) (t : State) (turn : s.schedule = .host act :: rest)
      (did : HostDid act { s with schedule := rest } t) : Stepped s t
  | sequencer (rest : List Turn) (t : State) (turn : s.schedule = .sequencer :: rest)
      (did : SequencerMoved { s with schedule := rest } t) : Stepped s t
  | answer (c : Collaborator) (a : Answer) (rest : List Turn) (t : State) (turn : s.schedule = .answer c a :: rest)
      (did : Answered c a { s with schedule := rest } t) : Stepped s t
  | freeSequencer (t : State) (turn : s.schedule = []) (enabled : sequencerEnabled s = true)
      (did : SequencerMoved s t) : Stepped s t
  | freeAnswer (c : Collaborator) (t : State) (turn : s.schedule = []) (waiting : sequencerEnabled s = false)
      (owes : owing s = some c) (did : Answered c (Machine.freeAnswer s.draws) { s with draws := s.draws + 1 } t) : Stepped s t
  | silent (turn : s.schedule = []) (waiting : sequencerEnabled s = false) (notOwed : owing s = none) : Stepped s s

/-- A step takes the schedule's turn. -/
theorem step_turn {s : State} {turn : Turn} {rest : List Turn} (h : s.schedule = turn :: rest) :
    step s = takeTurn turn { s with schedule := rest } := by
  unfold step
  rw [h]

/-- Where the schedule gives no turn, the step is the free one. -/
theorem step_free {s : State} (h : s.schedule = []) : step s = freeTurn s := by
  unfold step
  rw [h]

theorem step_cases {s t : State} (h : step s = .next t) : Stepped s t := by
  unfold step at h
  split at h
  · rename_i turn rest hs
    cases turn with
    | host act => exact .host act rest t hs (hostStep_cases h)
    | sequencer => exact .sequencer rest t hs (sequencerStep_cases h)
    | answer c a => exact .answer c a rest t hs (answerStep_cases h)
  · unfold freeTurn at h
    split at h
    · exact .freeSequencer t ‹_› ‹_› (sequencerStep_cases h)
    · split at h
      · exact .freeAnswer _ t ‹_› (by simpa using ‹¬ sequencerEnabled s = true›) ‹_› (answerStep_cases h)
      · cases h
        exact .silent ‹_› (by simpa using ‹¬ sequencerEnabled s = true›) ‹_›

end Sys2Proof.Machine
end

