-- ==== Sys2Proof/Laws/PerInstr.lean ====
section
/-! SUPPORT. A statement for every instruction: the word its encoding begins with matches its own row of
`opcode_table.json` (rules R70, R71, R75, R80). -/

namespace Sys2Proof.Laws.TableBits

/-- Mask and match of the instruction's row of `opcode_table.json`. -/
def row : Instr → Nat × Nat
  | .configure _ => (0x000000FF, 0x00000000)
  | .bcastCmd _ _ => (0x000000FF, 0x00000001)
  | .clear => (0x000000FF, 0x00000002)
  | .bcastRaw _ _ => (0x000000FF, 0x00000003)
  | .writeLine _ _ => (0x000000FF, 0x00000004)
  | .writeDevice _ _ _ => (0x000000FF, 0x00000005)
  | .renderText _ _ => (0x000000FF, 0x00000006)
  | .rotate _ => (0x000000FF, 0x00000007)
  | .pairNoop _ => (0xFF00, 0x0000)
  | .pairRow0 _ => (0xFF00, 0x0100)
  | .pairRow1 _ => (0xFF00, 0x0200)
  | .pairRow2 _ => (0xFF00, 0x0300)
  | .pairRow3 _ => (0xFF00, 0x0400)
  | .pairRow4 _ => (0xFF00, 0x0500)
  | .pairRow5 _ => (0xFF00, 0x0600)
  | .pairRow6 _ => (0xFF00, 0x0700)
  | .pairRow7 _ => (0xFF00, 0x0800)
  | .pairDecodeMode _ => (0xFF00, 0x0900)
  | .pairIntensity _ => (0xFF00, 0x0A00)
  | .pairScanLimit _ => (0xFF00, 0x0B00)
  | .pairOnOff _ => (0xFF00, 0x0C00)
  | .pairDisplayTest _ => (0xFF00, 0x0F00)

/-- The first word of an encoded instruction, as a number. -/
def firstWord : Encoded → Nat
  | .descriptor d => d.w0.toNat
  | .pair w => w.toNat

/-- The statement: the first word, under the row's mask, is the row's match. -/
def Statement (i : Instr) : Prop := firstWord (encode i) &&& (row i).1 = (row i).2

theorem descriptor_matches (c b a opc : Byte) : (packW0 c b a opc).toNat &&& 0x000000FF = opc.toNat := by
  have h : fieldOpc (packW0 c b a opc) = opc := fieldOpc_packW0 c b a opc
  have h' : ((packW0 c b a opc).extractLsb' 0 8).toNat = opc.toNat := congrArg BitVec.toNat h
  rw [BitVec.extractLsb'_toNat, Nat.shiftRight_zero] at h'
  rw [show (0x000000FF : Nat) = 2 ^ 8 - 1 from rfl, Nat.and_two_pow_sub_one_eq_mod]
  exact h'

theorem pair_matches (reg data : Byte) : (packPair reg data).toNat &&& 0xFF00 = reg.toNat * 256 := by
  apply Nat.eq_of_testBit_eq
  intro i
  rw [Nat.testBit_and, show (0xFF00 : Nat) = (2 ^ 8 - 1) * 2 ^ 8 from rfl, show (256 : Nat) = 2 ^ 8 from rfl,
    Nat.testBit_mul_two_pow, Nat.testBit_mul_two_pow, Nat.testBit_two_pow_sub_one, BitVec.testBit_toNat,
    getLsbD_packPair, BitVec.testBit_toNat]
  by_cases h : 8 ≤ i
  · by_cases h' : i - 8 < 8
    · simp [h, h', show ¬ i < 8 by omega]
    · simp [h, h', BitVec.getLsbD_of_ge reg (i - 8) (by omega)]
  · simp [h]

theorem configure (n : Byte) : Statement (.configure n) := descriptor_matches _ _ _ _
theorem bcastCmd (r : Register) (d : Byte) : Statement (.bcastCmd r d) := descriptor_matches _ _ _ _
theorem clear : Statement .clear := descriptor_matches _ _ _ _
theorem bcastRaw (r d : Byte) : Statement (.bcastRaw r d) := descriptor_matches _ _ _ _
theorem writeLine (l : Byte) (p : List Byte) : Statement (.writeLine l p) := descriptor_matches _ _ _ _
theorem writeDevice (v r d : Byte) : Statement (.writeDevice v r d) := descriptor_matches _ _ _ _
theorem renderText (t : List Byte) (x : Int) : Statement (.renderText t x) := descriptor_matches _ _ _ _
theorem rotate (m : Matrix8) : Statement (.rotate m) := descriptor_matches _ _ _ _
theorem pairNoop (d : Byte) : Statement (.pairNoop d) := pair_matches _ _
theorem pairRow0 (d : Byte) : Statement (.pairRow0 d) := pair_matches _ _
theorem pairRow1 (d : Byte) : Statement (.pairRow1 d) := pair_matches _ _
theorem pairRow2 (d : Byte) : Statement (.pairRow2 d) := pair_matches _ _
theorem pairRow3 (d : Byte) : Statement (.pairRow3 d) := pair_matches _ _
theorem pairRow4 (d : Byte) : Statement (.pairRow4 d) := pair_matches _ _
theorem pairRow5 (d : Byte) : Statement (.pairRow5 d) := pair_matches _ _
theorem pairRow6 (d : Byte) : Statement (.pairRow6 d) := pair_matches _ _
theorem pairRow7 (d : Byte) : Statement (.pairRow7 d) := pair_matches _ _
theorem pairDecodeMode (d : Byte) : Statement (.pairDecodeMode d) := pair_matches _ _
theorem pairIntensity (d : Byte) : Statement (.pairIntensity d) := pair_matches _ _
theorem pairScanLimit (d : Byte) : Statement (.pairScanLimit d) := pair_matches _ _
theorem pairOnOff (d : Byte) : Statement (.pairOnOff d) := pair_matches _ _
theorem pairDisplayTest (d : Byte) : Statement (.pairDisplayTest d) := pair_matches _ _

end Sys2Proof.Laws.TableBits
end

