-- ==== Sys2Proof/Laws/Run.lean ====
section
/-! SUPPORT. Runs of several steps: how runs compose, what the environment's answers depend on, and one frame in which
nothing fails, as one lemma (rules R100 to R104). -/

namespace Sys2Proof.Machine

/-! ### Runs -/

/-- `k` steps of the machine. -/
abbrev run (k : Nat) (s : State) : Result := Host.Core.run Sys2Proof.core k s

@[simp] theorem run_zero (s : State) : run 0 s = .next s := rfl

theorem run_succ {s t : State} (k : Nat) (h : step s = .next t) : run (k + 1) s = run k t := by
  have h' : Sys2Proof.core.step s = .next t := h
  simp only [run, Host.Core.run, h']
  rfl

theorem run_add {a : Nat} {s t : State} (b : Nat) (h : run a s = .next t) : run (a + b) s = run b t := by
  induction a generalizing s with
  | zero =>
    cases h
    rw [Nat.zero_add]
  | succ a ih =>
    cases hs : step s with
    | next u =>
      rw [run_succ _ hs] at h
      rw [Nat.add_right_comm, run_succ _ hs]
      exact ih h
    | fault r =>
      have h' : Sys2Proof.core.step s = .fault r := hs
      simp only [run, Host.Core.run, h'] at h
      cases h
    | refused r =>
      have h' : Sys2Proof.core.step s = .refused r := hs
      simp only [run, Host.Core.run, h'] at h
      cases h

theorem okTurns_add (c : Collaborator) (a b : Nat) : okTurns c (a + b) = okTurns c a ++ okTurns c b := by
  induction a with
  | zero => simp [okTurns]
  | succ a ih => rw [Nat.add_right_comm, okTurns, ih, okTurns, List.cons_append, List.cons_append]

/-! ### What the environment's answers depend on -/

/-- Two states that are the same to the chips. -/
structure SameOutside (s t : State) : Prop where
  chain : s.chain = t.chain
  n : s.n = t.n
  params : s.params = t.params

theorem SameOutside.chainLength {s t : State} (h : SameOutside s t) : chainLength s = chainLength t := by
  rw [Machine.chainLength, Machine.chainLength, h.chain, h.n]

theorem SameOutside.forget {s t : State} (h : SameOutside s t) (p : Nat) : SameOutside (forgetChip p s) (forgetChip p t) :=
  ⟨by simp [h.chain], h.n, h.params⟩

theorem SameOutside.exec_pairInstr {s t u : State} (h : SameOutside s t) {r : Register} {data : Byte}
    (hs : exec (pairInstr r data) s = .next u) : ∃ v, exec (pairInstr r data) t = .next v ∧ SameOutside u v := by
  by_cases hr : r = .noop
  · subst hr
    simp only [pairInstr, exec, execPairNoop, ← h.params, ← h.chain] at hs ⊢
    cases hp : s.params.noop with
    | anyData =>
      simp only [hp] at hs ⊢
      cases hs
      exact ⟨_, rfl, h⟩
    | nothing =>
      simp only [hp] at hs ⊢
      cases hs
      exact ⟨_, rfl, h.forget _⟩
    | zeroData =>
      simp only [hp] at hs ⊢
      split at hs
      · rw [if_pos ‹_›]
        cases hs
        exact ⟨_, rfl, h⟩
      · rw [if_neg ‹_›]
        cases hs
        exact ⟨_, rfl, h.forget _⟩
  · rw [exec_pairInstr_stores hr] at hs ⊢
    cases hs
    exact ⟨_, rfl, by simp [latchCell, writeChipCell, h.chain], h.n, h.params⟩

theorem SameOutside.latchChip {s t u : State} (h : SameOutside s t) {p : Nat} (hs : latchChip p s = .next u) :
    ∃ v, latchChip p t = .next v ∧ SameOutside u v := by
  have hp : chipPair t p = chipPair s p := by rw [chipPair, chipPair, h.chain]
  unfold Machine.latchChip at hs ⊢
  rw [hp]
  cases hw : chipPair s p with
  | none =>
    rw [hw] at hs
    cases hs
    exact ⟨_, rfl, h.forget p⟩
  | some w =>
    rw [hw] at hs
    simp only [decodePair] at hs ⊢
    cases hr : Register.ofCode (pairReg w) with
    | none =>
      rw [hr] at hs
      cases hs
      exact ⟨_, rfl, h.forget p⟩
    | some r =>
      rw [hr] at hs
      have hc : SameOutside (selectChip p s) (selectChip p t) := ⟨by simp [h.chain], h.n, h.params⟩
      exact hc.exec_pairInstr hs

theorem SameOutside.latchChips {s t u : State} (h : SameOutside s t) {ps : List Nat} (hs : latchChips ps s = .next u) :
    ∃ v, latchChips ps t = .next v ∧ SameOutside u v := by
  induction ps generalizing s t with
  | nil =>
    cases hs
    exact ⟨_, rfl, h⟩
  | cons p ps ih =>
    obtain ⟨a, ha, hs⟩ := andThen_eq_next hs
    obtain ⟨b, hb, hab⟩ := h.latchChip ha
    obtain ⟨v, hv, huv⟩ := ih hab hs
    exact ⟨v, by rw [Machine.latchChips, hb]; exact hv, huv⟩

@[simp] theorem chainTxOk_n (b : Byte) (s : State) : (chainTxOk b s).n = s.n := by
  unfold chainTxOk
  split <;> rfl

@[simp] theorem chainTxOk_params (b : Byte) (s : State) : (chainTxOk b s).params = s.params := by
  unfold chainTxOk
  split <;> rfl

@[simp] theorem foldl_chainTxOk_n (bs : List Byte) (s : State) : (bs.foldl (fun u b => chainTxOk b u) s).n = s.n := by
  induction bs generalizing s with
  | nil => rfl
  | cons b bs ih => rw [List.foldl_cons, ih, chainTxOk_n]

@[simp] theorem foldl_chainTxOk_params (bs : List Byte) (s : State) :
    (bs.foldl (fun u b => chainTxOk b u) s).params = s.params := by
  induction bs generalizing s with
  | nil => rfl
  | cons b bs ih => rw [List.foldl_cons, ih, chainTxOk_params]

theorem SameOutside.chainTxOk {s t : State} (h : SameOutside s t) (b : Byte) : SameOutside (chainTxOk b s) (chainTxOk b t) := by
  unfold Machine.chainTxOk
  rw [h.chainLength, h.chain]
  split
  · exact ⟨rfl, h.n, h.params⟩
  · exact ⟨rfl, h.n, h.params⟩

theorem SameOutside.foldl_chainTxOk {s t : State} (h : SameOutside s t) (bs : List Byte) :
    SameOutside (bs.foldl (fun u b => Machine.chainTxOk b u) s) (bs.foldl (fun u b => Machine.chainTxOk b u) t) := by
  induction bs generalizing s t with
  | nil => exact h
  | cons b bs ih => exact ih (h.chainTxOk b)

/-- A deassert answered `ok` does the same to two states that are the same to the chips. -/
theorem SameOutside.deassertOk {s t u : State} (h : SameOutside s t)
    (hs : environmentAnswer (.sel .deassert) .ok s = .next u) :
    ∃ v, environmentAnswer (.sel .deassert) .ok t = .next v ∧ SameOutside u v := by
  have hd : SameOutside (driveLine .deassert .ok s) (driveLine .deassert .ok t) := ⟨h.chain, h.n, h.params⟩
  have hf : frameComplete (driveLine .deassert .ok t) = frameComplete (driveLine .deassert .ok s) := by
    rw [frameComplete, frameComplete, hd.chainLength, hd.chain]
  simp only [environmentAnswer, chainDeassertOk] at hs ⊢
  rw [hf]
  split at hs
  · rw [if_pos ‹_›, ← hd.chainLength]
    have hc : SameOutside (closeFrame (driveLine .deassert .ok s)) (closeFrame (driveLine .deassert .ok t)) :=
      ⟨by simp [h.chain], h.n, h.params⟩
    exact hc.latchChips hs
  · rw [if_neg ‹_›]
    cases hs
    exact ⟨_, rfl, by simp [closeFrame, forgetChain, h.chain], h.n, h.params⟩

theorem line_of_deassertOk {s t : State} (h : environmentAnswer (.sel .deassert) .ok s = .next t) :
    t.line = some .deassert := by
  simp only [environmentAnswer, chainDeassertOk] at h
  split at h
  · obtain ⟨u, hu, hf, -⟩ := latchChips_next (List.range (chainLength (driveLine .deassert .ok s)))
      (closeFrame (driveLine .deassert .ok s)) List.nodup_range
    rw [hu] at h
    cases h
    rw [hf]
    rfl
  · cases h
    rfl

/-! ### One frame in which nothing fails -/

/-- The bytes of a list of pairs in the order they are sent (rules R45, R46). -/
def pairsBytes (pairs : List (Byte × Byte)) : List Byte := pairs.flatMap (fun q => [q.1, q.2])

/-- One byte: it is sent and answered `ok`. -/
theorem sendByte {s : State} {f t : Nat} {h : Half} {b : Byte} {rest : List Turn}
    (turns : s.schedule = .sequencer :: .answer .xfer .ok :: rest) (at_ : s.seq = .byte f t h) (go : s.cancelPend = false)
    (own : s.abandoned = []) (free : s.outstanding = none) (is : frameByte s f t h = some b) :
    run 2 s = .next { s with
      schedule := rest, seq := afterByte s.n.toNat f t h, chain := (chainTxOk b s).chain
      trace := s.trace ++ [.tx b, .answered .ok] } := by
  have h1 : step s = .next (issue (.tx b) (.waitByte f t h) { s with schedule := .answer .xfer .ok :: rest }) := by
    have is' : frameByte { s with schedule := .answer .xfer .ok :: rest } f t h = some b := is
    rw [step_turn turns]
    simp only [takeTurn, sequencerStep, at_, byteStep]
    rw [if_neg (by simp [go]), ← at_, is']
  have h2 : step (issue (.tx b) (.waitByte f t h) { s with schedule := .answer .xfer .ok :: rest }) = .next { s with
      schedule := rest, seq := afterByte s.n.toNat f t h, chain := (chainTxOk b s).chain
      trace := s.trace ++ [.tx b, .answered .ok] } := by
    rw [step_turn (turn := .answer .xfer .ok) (rest := rest) rfl, takeTurn,
      answerStep_own (s := { issue (.tx b) (.waitByte f t h) { s with schedule := .answer .xfer .ok :: rest } with
        schedule := rest }) (c := .xfer) (r := .tx b) _ (by simp [own]) rfl rfl]
    simp only [environmentAnswer, andThen_next]
    by_cases hf : s.chain.frameOpen = true
    · simp [blockAnswer, chainTxOk, takeAnswer, issue, requestEvent, hf, byteAnswered, chainLength, free]
    · simp [blockAnswer, chainTxOk, takeAnswer, issue, requestEvent, hf, byteAnswered, free]
  rw [run_succ 1 h1, run_succ 0 h2, run_zero]

/-- One pair: its two bytes are sent and answered `ok`. -/
theorem sendPair {s : State} {i : Instr} {f t : Nat} {p : Byte × Byte} {rest : List Turn}
    (turns : s.schedule = okTurns .xfer 2 ++ rest) (at_ : s.seq = .byte f t .register) (go : s.cancelPend = false)
    (own : s.abandoned = []) (free : s.outstanding = none) (running : s.inFlight = some i)
    (is : framePair (glyphRow s.params) s.n.toNat i f t = some p) :
    run 4 s = .next { s with
      schedule := rest, seq := afterByte s.n.toNat f t .data
      chain := ((pairsBytes [p]).foldl (fun u b => chainTxOk b u) s).chain
      trace := s.trace ++ pairEvents p } := by
  have h1 := sendByte (b := p.1) (rest := okTurns .xfer 1 ++ rest) turns at_ go own free (by simp [frameByte, running, is, pairByte])
  have h2 := sendByte (s := { s with
      schedule := okTurns .xfer 1 ++ rest, seq := afterByte s.n.toNat f t .register, chain := (chainTxOk p.1 s).chain
      trace := s.trace ++ [.tx p.1, .answered .ok] }) (f := f) (t := t) (h := .data) (b := p.2) (rest := rest)
    rfl rfl go own free (by simp [frameByte, running, is, pairByte])
  rw [show (4 : Nat) = 2 + 2 from rfl, run_add 2 h1, h2]
  have same : SameOutside { s with
      schedule := okTurns .xfer 1 ++ rest, seq := afterByte s.n.toNat f t .register, chain := (chainTxOk p.1 s).chain
      trace := s.trace ++ [.tx p.1, .answered .ok] } (chainTxOk p.1 s) := ⟨rfl, by simp, by simp⟩
  have hc := (same.chainTxOk p.2).chain
  simp only [hc, pairsBytes, pairEvents, List.flatMap_singleton, List.foldl_cons, List.foldl_nil, List.append_assoc,
    List.cons_append, List.nil_append]

/-- The pairs from slot `t` to the last: all sent and answered `ok`. -/
theorem sendPairs {m : Nat} {s : State} {i : Instr} {f t : Nat} {rest : List Turn} {pairs : List (Byte × Byte)}
    (slots : t + (m + 1) = s.n.toNat) (turns : s.schedule = okTurns .xfer (2 * (m + 1)) ++ rest)
    (at_ : s.seq = .byte f t .register) (go : s.cancelPend = false) (own : s.abandoned = [])
    (free : s.outstanding = none) (running : s.inFlight = some i) (length : pairs.length = m + 1)
    (are : ∀ k, k < m + 1 → framePair (glyphRow s.params) s.n.toNat i f (t + k) = pairs[k]?) :
    run (4 * (m + 1)) s = .next { s with
      schedule := rest, seq := .release f
      chain := ((pairsBytes pairs).foldl (fun u b => chainTxOk b u) s).chain
      trace := s.trace ++ pairs.flatMap pairEvents } := by
  induction m generalizing s t pairs with
  | zero =>
    obtain ⟨p, rfl⟩ := List.length_eq_one_iff.1 length
    rw [show 4 * (0 + 1) = 4 from rfl,
      sendPair turns at_ go own free running (by simpa using are 0 (by omega))]
    have hq : afterByte s.n.toNat f t .data = .release f := if_neg (by omega)
    rw [hq, List.flatMap_singleton]
  | succ m ih =>
    match pairs, length with
    | p :: pairs, length =>
      have turns' : s.schedule = okTurns .xfer 2 ++ (okTurns .xfer (2 * (m + 1)) ++ rest) := by
        rw [turns, show 2 * (m + 1 + 1) = 2 + 2 * (m + 1) by omega, okTurns_add, List.append_assoc]
      have h1 := sendPair turns' at_ go own free running (by simpa using are 0 (by omega))
      rw [show 4 * (m + 1 + 1) = 4 + 4 * (m + 1) by omega, run_add _ h1]
      have hq : afterByte s.n.toNat f t .data = .byte f (t + 1) .register := if_pos (by omega)
      let s' : State := { s with
        schedule := okTurns .xfer (2 * (m + 1)) ++ rest, seq := afterByte s.n.toNat f t .data
        chain := ((pairsBytes [p]).foldl (fun u b => chainTxOk b u) s).chain
        trace := s.trace ++ pairEvents p }
      have same : SameOutside s' ((pairsBytes [p]).foldl (fun u b => chainTxOk b u) s) :=
        ⟨rfl, by simp [s'], by simp [s']⟩
      have h2 := ih (s := s') (pairs := pairs) (t := t + 1) (by change t + 1 + (m + 1) = s.n.toNat; omega) rfl hq go own
        free running (by rw [List.length_cons] at length; omega)
        (fun k hk => by simpa [Nat.add_assoc, Nat.add_comm 1 k] using are (k + 1) (by omega))
      refine h2.trans ?_
      rw [(same.foldl_chainTxOk (pairsBytes pairs)).chain]
      simp only [s', pairsBytes, List.flatMap_cons, List.flatMap_nil, List.append_nil, List.foldl_append,
        List.append_assoc]

/-- A command that acceptance let through has a pair for every slot. -/
theorem framePair_of_fits {n : Byte} {i : Instr} (h : commandFits n i) (glyph : Byte → Nat → Byte) (f : Nat) {t : Nat}
    (ht : t < n.toNat) : ∃ p, framePair glyph n.toNat i f t = some p := by
  obtain ⟨hc, hl, -⟩ := h
  cases i <;> simp [framePair, frameCount] at hc ⊢
  have := (hl _ _ rfl).2
  simp [writeLinePair, show t < _ from this ▸ ht]

/-- The pairs of a frame, slot by slot. -/
theorem framePairs_get {p : Params} {n : Byte} {i : Instr} (h : commandFits n i) (f : Nat) :
    (framePairs p n.toNat i f).length = n.toNat ∧
    ∀ t, t < n.toNat → framePair (glyphRow p) n.toNat i f t = (framePairs p n.toNat i f)[t]? := by
  have all : ∀ m, m ≤ n.toNat → ((List.range m).filterMap (framePair (glyphRow p) n.toNat i f)).length = m ∧
      ∀ t, t < m → framePair (glyphRow p) n.toNat i f t =
        ((List.range m).filterMap (framePair (glyphRow p) n.toNat i f))[t]? := by
    intro m
    induction m with
    | zero => exact fun _ => ⟨rfl, fun t ht => by omega⟩
    | succ m ih =>
      intro hm
      obtain ⟨h1, h2⟩ := ih (by omega)
      obtain ⟨q, hq⟩ := framePair_of_fits h (glyphRow p) f (t := m) (by omega)
      have hs : (List.range (m + 1)).filterMap (framePair (glyphRow p) n.toNat i f) =
          (List.range m).filterMap (framePair (glyphRow p) n.toNat i f) ++ [q] := by
        rw [List.range_succ, List.filterMap_append]
        simp [hq]
      rw [hs]
      refine ⟨by simp [h1], fun t ht => ?_⟩
      by_cases htm : t < m
      · rw [h2 t htm, List.getElem?_append_left (by omega)]
      · have : t = m := by omega
        subst this
        rw [hq, List.getElem?_append_right (by omega), h1]
        simp
  exact all n.toNat (Nat.le_refl _)

/-- A command of `count` frames is about to assert for frame `f`, and nothing fails in the turns to come. -/
structure AboutToAssert (s : State) (i : Instr) (count f : Nat) (rest : List Turn) : Prop where
  length : 1 ≤ s.n.toNat
  position : s.seq = .assert f
  command : s.inFlight = some i
  frames : frameCount i = some count
  inside : f < count
  not_cancelled : s.cancelPend = false
  none_abandoned : s.abandoned = []
  none_outstanding : s.outstanding = none
  no_error : s.err = none
  busy : s.mode = .busy
  turns : s.schedule = commandTurns s.n.toNat (count - f) ++ rest

/-- The chips just before the release of a frame whose pairs were all sent. -/
def chipsBeforeRelease (s : State) (pairs : List (Byte × Byte)) : State :=
  (pairsBytes pairs).foldl (fun u b => chainTxOk b u) (chainAssertOk s)

/-- One frame: after its `2·n + 2` requests the chips are as the deassert leaves them, the trace has the frame's events,
and the command is about to assert for the next frame or has ended with OK. -/
theorem sendFrame {s : State} {i : Instr} {count f : Nat} {rest : List Turn} (h : AboutToAssert s i count f rest)
    (fits : commandFits s.n i) :
    ∃ t u, run (2 * (2 * s.n.toNat + 2)) s = .next t ∧
      environmentAnswer (.sel .deassert) .ok (chipsBeforeRelease s (framePairs s.params s.n.toNat i f)) = .next u ∧
      t.chain = u.chain ∧ t.line = some .deassert ∧ t.selState = .deasserted ∧
      (t.n = s.n ∧ t.w0 = s.w0 ∧ t.w1 = s.w1 ∧ t.w2 = s.w2 ∧ t.buf = s.buf ∧ t.res = s.res ∧ t.errInfo = s.errInfo ∧
        t.params = s.params) ∧
      t.schedule = commandTurns s.n.toNat (count - (f + 1)) ++ rest ∧
      ((f + 1 < count ∧ t.trace = s.trace ++ frameEvents (framePairs s.params s.n.toNat i f) ∧
          AboutToAssert t i count (f + 1) rest) ∨
        (f + 1 = count ∧ t.trace = s.trace ++ frameEvents (framePairs s.params s.n.toNat i f) ++ [.done .ok] ∧
          t.status = .ok ∧ t.mode = .idle ∧ t.seq = .idle)) := by
  obtain ⟨length, position, command, frames, inside, go, own, free, noError, busy, turns⟩ := h
  obtain ⟨m, hm⟩ : ∃ m, s.n.toNat = m + 1 := ⟨s.n.toNat - 1, by omega⟩
  let pairs := framePairs s.params s.n.toNat i f
  let rest' := commandTurns s.n.toNat (count - (f + 1)) ++ rest
  have turns' : s.schedule = .sequencer :: .answer .seldrv .ok :: (okTurns .xfer (2 * s.n.toNat) ++ (okTurns .seldrv 1 ++ rest')) := by
    obtain ⟨c, hc⟩ : ∃ c, count - f = c + 1 := ⟨count - f - 1, by omega⟩
    have hc' : count - (f + 1) = c := by omega
    simp only [turns, hc, hc', rest', commandTurns, frameTurns, List.append_assoc]
    rfl
  have unowed : ∀ c, ∀ q ∈ s.abandoned, requestedOf q ≠ c := by simp [own]
  -- the assert
  let s1 : State := { s with
    schedule := okTurns .xfer (2 * s.n.toNat) ++ (okTurns .seldrv 1 ++ rest'), selState := .asserted, seq := .byte f 0 .register
    line := some .assert, chain := (chainAssertOk s).chain, trace := s.trace ++ [.sel .assert, .answered .ok] }
  let asked : State := issue (.sel .assert) (.waitAssert f)
    { s with schedule := .answer .seldrv .ok :: (okTurns .xfer (2 * s.n.toNat) ++ (okTurns .seldrv 1 ++ rest')) }
  have hAssert : step s = .next asked := by
    rw [step_turn turns']
    simp [takeTurn, sequencerStep, position, assertStep, go, asked]
  have hAsserted : step asked = .next s1 := by
    rw [step_turn (turn := .answer .seldrv .ok) (rest := okTurns .xfer (2 * s.n.toNat) ++ (okTurns .seldrv 1 ++ rest')) rfl, takeTurn,
      answerStep_own (s := { asked with schedule := okTurns .xfer (2 * s.n.toNat) ++ (okTurns .seldrv 1 ++ rest') })
        (c := .seldrv) (r := .sel .assert) _ (unowed .seldrv) rfl rfl]
    simp [environmentAnswer, blockAnswer, assertAnswered, chainAssertOk, driveLine, takeAnswer, issue, requestEvent,
      lineAfter, selStateAfter, free, asked, s1]
  -- the bytes
  obtain ⟨hlen, hget⟩ := framePairs_get (p := s.params) fits f
  let s2 : State := { s1 with
    schedule := okTurns .seldrv 1 ++ rest', seq := .release f
    chain := ((pairsBytes pairs).foldl (fun u b => chainTxOk b u) s1).chain
    trace := s1.trace ++ pairs.flatMap pairEvents }
  have hBytes : run (4 * (m + 1)) s1 = .next s2 :=
    sendPairs (s := s1) (t := 0) (pairs := pairs) (by change 0 + (m + 1) = s.n.toNat; omega)
      (by change okTurns .xfer (2 * s.n.toNat) ++ (okTurns .seldrv 1 ++ rest') = _; rw [hm]) rfl go own free command
      (by rw [← hm]; exact hlen) (fun k hk => by rw [Nat.zero_add]; exact hget k (by omega))
  -- the release
  let releasing : State := issue (.sel .deassert) (.waitRelease f) { s2 with schedule := .answer .seldrv .ok :: rest' }
  let taken : State := takeAnswer .ok { releasing with schedule := rest' }
  have hRelease : step s2 = .next releasing := step_turn (turn := .sequencer) (rest := .answer .seldrv .ok :: rest') rfl
  obtain ⟨v, hv, hvf, -⟩ := environmentAnswer_next (.sel .deassert) .ok taken
  have hReleased : step releasing = releaseAnswered f .ok v := by
    rw [step_turn (turn := .answer .seldrv .ok) (rest := rest') rfl, takeTurn,
      answerStep_own (s := { releasing with schedule := rest' }) (c := .seldrv) (r := .sel .deassert) _ (unowed .seldrv) rfl rfl]
    change andThen (environmentAnswer (.sel .deassert) .ok taken) (blockAnswer .ok) = _
    rw [hv, andThen_next]
    have : v.seq = .waitRelease f := by
      rw [hvf]
      rfl
    simp only [blockAnswer, this]
  have same : SameOutside taken (chipsBeforeRelease s pairs) :=
    have h := SameOutside.foldl_chainTxOk (s := s1) (t := chainAssertOk s) ⟨rfl, rfl, rfl⟩ (pairsBytes pairs)
    ⟨h.chain, (foldl_chainTxOk_n (pairsBytes pairs) (chainAssertOk s)).symm,
      (foldl_chainTxOk_params (pairsBytes pairs) (chainAssertOk s)).symm⟩
  obtain ⟨u, hu, huv⟩ := same.deassertOk hv
  have total : ∀ t, releaseAnswered f .ok v = .next t → run (2 * (2 * s.n.toNat + 2)) s = .next t := by
    intro t ht
    rw [show 2 * (2 * s.n.toNat + 2) = 4 * (m + 1) + 2 + 1 + 1 by omega, run_succ _ hAssert, run_succ _ hAsserted,
      run_add _ hBytes, run_succ 1 hRelease, run_succ 0 (hReleased.trans ht), run_zero]
  have hFrames : framesInFlight { v with selState := selStateAfter .deassert .ok, err := none } = some count := by
    rw [hvf]
    change (match s.inFlight with | none => none | some i => frameCount i) = some count
    rw [command]
    exact frames
  have hTrace : v.trace = s.trace ++ frameEvents pairs := by
    rw [hvf]
    change (((s.trace ++ [Event.sel .assert, Event.answered .ok]) ++ pairs.flatMap pairEvents) ++
      [Event.sel .deassert]) ++ [Event.answered .ok] = _
    simp [frameEvents]
  have hErr : v.err = none := by
    rw [hvf]
    exact noError
  have kept : v.n = s.n ∧ v.w0 = s.w0 ∧ v.w1 = s.w1 ∧ v.w2 = s.w2 ∧ v.buf = s.buf ∧ v.res = s.res ∧
      v.errInfo = s.errInfo ∧ v.params = s.params := by
    rw [hvf]
    exact ⟨rfl, rfl, rfl, rfl, rfl, rfl, rfl, rfl⟩
  have hMode : v.mode = .busy := by
    rw [hvf]
    exact busy
  have hLine := line_of_deassertOk hv
  have hSchedule : v.schedule = rest' := by
    rw [hvf]
    rfl
  simp only [releaseAnswered, nextFrame, errAfterRelease, hErr, hFrames] at total
  by_cases more : f + 1 < count
  · rw [if_pos more] at total
    refine ⟨_, u, total _ rfl, hu, huv.chain, hLine, rfl, kept, hSchedule, .inl ⟨more, hTrace, ?_⟩⟩
    refine ⟨?_, rfl, ?_, frames, more, ?_, ?_, ?_, rfl, hMode, ?_⟩
    · simpa only [kept.1] using length
    · rw [hvf]; exact command
    · rw [hvf]; exact go
    · rw [hvf]; exact own
    · rw [hvf]; rfl
    · simp only [hSchedule, kept.1, rest']
  · rw [if_neg more] at total
    refine ⟨_, u, total _ rfl, hu, huv.chain, hLine, rfl, kept, hSchedule, .inr ⟨by omega, ?_, rfl, ?_, rfl⟩⟩
    · simp [hTrace, pairs]
    · simp [hMode, modeAfterEnd]

end Sys2Proof.Machine
end

