-- ==== Sys2Proof/Tests/Slice0.lean ====
section
/-! SUPPORT. The model's own tests: the well-formedness checks refuse what they should; a word of every instruction
written out bit by bit from the spec's encoding decodes to it; one step at a time against the vectors of
`95_test_vectors.md`; and, for every statement with hypotheses, a state and operands that meet them. -/

namespace Sys2Proof.Tests

open Sys2Proof.Machine

/-! ### Well-formedness: one ill-formed term for each check -/

theorem test_wf_payload_over_buf : ¬ (Instr.writeLine 0 [1, 2, 3]).WellFormed 2 := by decide
theorem test_wf_payload_over_len : ¬ (Instr.writeLine 0 (List.replicate (2 ^ 16) 0)).WellFormed (2 ^ 17) :=
  fun h => Nat.lt_irrefl _ (List.length_replicate (n := 2 ^ 16) (a := (0 : Byte)) ▸ h.2)
theorem test_wf_text_over_buf : ¬ (Instr.renderText [1, 2, 3] 0).WellFormed 2 := by decide
theorem test_wf_text_over_len : ¬ (Instr.renderText (List.replicate (2 ^ 16) 0) 0).WellFormed (2 ^ 17) :=
  fun h => Nat.lt_irrefl _ (List.length_replicate (n := 2 ^ 16) (a := (0 : Byte)) ▸ h.1.2)
theorem test_wf_x_pos_low : ¬ (Instr.renderText [] (-2147483649)).WellFormed 8 := by decide
theorem test_wf_x_pos_high : ¬ (Instr.renderText [] 2147483648).WellFormed 8 := by decide
theorem test_wf_rotate_buf : ¬ (Instr.rotate Matrix8.zero).WellFormed 7 := by decide

/-! ### Decoding: words written out from rules R70, R71, R75, R80 -/

/-- Fields in the order `C`, `B`, `A`, `OPC`; the fields a command does not read are not zero here (rule R74). -/
theorem test_decode_configure :
    decodeTableWord 32 0b00000100_11111111_11111111_00000000 = some (.configure 4) := by decide
theorem test_decode_bcastCmd :
    decodeTableWord 32 0b11111111_00000111_00001010_00000001 = some (.bcastCmd .intensity 0x07) := by decide
theorem test_decode_clear :
    decode 65535 (.descriptor ⟨0xFFFFFF02, 0xFFFF0000, 0x12345678, []⟩) = .ok .clear := by decide
theorem test_decode_bcastRaw :
    decodeTableWord 32 0b00000000_11111111_00001101_00000011 = some (.bcastRaw 0x0D 0xFF) := by decide
/-- The ignored-fields vector of section 2.1. -/
theorem test_decode_writeLine :
    decode 65535 (.descriptor ⟨0x03AB1204, 0xDEAD0002, 0xFFFFFFFF, [0xAA, 0x55, 0x99]⟩) =
      .ok (.writeLine 3 [0xAA, 0x55]) := by decide
theorem test_decode_writeDevice :
    decodeTableWord 32 0b00000001_00001111_00001010_00000101 = some (.writeDevice 1 0x0A 0x0F) := by decide
theorem test_decode_renderText :
    decode 65535 (.descriptor ⟨0x00000006, 0x00000002, 0xFFFFFFFD, [0x41, 0x42]⟩) =
      .ok (.renderText [0x41, 0x42] (-3)) := by decide
theorem test_decode_rotate :
    decode 65535 (.descriptor ⟨0x00000007, 0x00000008, 0, [1, 0, 0, 0, 0, 0, 0, 0]⟩) =
      .ok (.rotate ⟨1, 0, 0, 0, 0, 0, 0, 0⟩) := by decide
theorem test_decode_pairNoop : decodeTableWord 16 0b00000000_10100101 = some (.pairNoop 0xA5) := by decide
theorem test_decode_pairRow0 : decodeTableWord 16 0b00000001_10100101 = some (.pairRow0 0xA5) := by decide
theorem test_decode_pairRow1 : decodeTableWord 16 0b00000010_10100101 = some (.pairRow1 0xA5) := by decide
theorem test_decode_pairRow2 : decodeTableWord 16 0b00000011_10100101 = some (.pairRow2 0xA5) := by decide
theorem test_decode_pairRow3 : decodeTableWord 16 0b00000100_10100101 = some (.pairRow3 0xA5) := by decide
theorem test_decode_pairRow4 : decodeTableWord 16 0b00000101_10100101 = some (.pairRow4 0xA5) := by decide
theorem test_decode_pairRow5 : decodeTableWord 16 0b00000110_10100101 = some (.pairRow5 0xA5) := by decide
theorem test_decode_pairRow6 : decodeTableWord 16 0b00000111_10100101 = some (.pairRow6 0xA5) := by decide
theorem test_decode_pairRow7 : decodeTableWord 16 0b00001000_10100101 = some (.pairRow7 0xA5) := by decide
theorem test_decode_pairDecodeMode : decodeTableWord 16 0b00001001_10100101 = some (.pairDecodeMode 0xA5) := by decide
theorem test_decode_pairIntensity : decodeTableWord 16 0b00001010_10100101 = some (.pairIntensity 0xA5) := by decide
theorem test_decode_pairScanLimit : decodeTableWord 16 0b00001011_10100101 = some (.pairScanLimit 0xA5) := by decide
theorem test_decode_pairOnOff : decodeTableWord 16 0b00001100_10100101 = some (.pairOnOff 0xA5) := by decide
theorem test_decode_pairDisplayTest : decodeTableWord 16 0b00001111_10100101 = some (.pairDisplayTest 0xA5) := by decide

/-- The codes the source does not name (rule R86), and the illegal descriptors of section 2.1. -/
theorem test_decode_unnamed :
    decodePair 0x0D00 = .error (.unnamedCode 0x0D) ∧ decodePair 0x0E00 = .error (.unnamedCode 0x0E) ∧
    decodePair 0x1000 = .error (.unnamedCode 0x10) := by decide
theorem test_decode_illegal :
    decodeTableWord 32 0x00000008 = none ∧ decodeTableWord 32 0xFFFFFFFF = none ∧
    decodeTableWord 32 0x00010D01 = none ∧ decodeTableWord 32 0x00000E01 = none ∧
    decodeTableWord 32 0x00001001 = none ∧ decodeTableWord 96 0x0000000700000007 = none ∧
    decodeTableWord 96 0x0000000900000007 = none := by decide

/-! ### States -/

/-- A configured block of `n` chips, as after reset and `configure n`. -/
def idle (n : Byte) : State := { State.reset with mode := .idle, n := n }

/-- A block about to assert for frame 0 of a command. -/
def begun (i : Instr) (n : Byte) : State := { idle n with mode := .busy, seq := .assert 0, inFlight := some i }

/-- The same with the turns of a run in which nothing fails. -/
def ready (i : Instr) (n : Byte) (count : Nat) : State :=
  { begun i n with schedule := commandTurns n.toNat count }

/-- A chain of one chip that holds a pair in a complete frame. -/
def holding (reg data : Byte) : State :=
  { idle 1 with chain := { Chain.initial with sr := [data, reg], frameOpen := true, cnt := 2 } }

def next (turns : List Turn) (s : State) : State := { s with schedule := turns }

theorem default_params_valid : ParamsValid Params.default :=
  ⟨by decide, by decide, by decide, by decide, List.Pairwise.nil⟩

theorem begun_inv {i : Instr} {n : Byte} (fits : commandFits n i) (low : 1 ≤ n.toNat) : (begun i n).Inv := by
  have hi := n.isLt
  refine ⟨default_params_valid, List.Pairwise.nil, by simp [begun, idle, State.reset],
    List.Pairwise.nil, by simp [begun], fun _ => ⟨low, ?_⟩, by simp [begun], ?_, ?_, rfl, rfl, by simp [begun, idle, State.reset],
    by simp [begun, idle, State.reset, Chain.initial], by simp [begun, idle, State.reset, Chain.initial], by simp [begun],
    Nat.zero_le _, fun h => absurd rfl h⟩
  · simp [begun, idle, State.reset, Params.default]
    omega
  · intro j hj
    cases hj
    exact fits
  · simp only [positionInRange, begun, framesInFlight]
    have := fits.1
    cases i <;> simp [frameCount] at this ⊢

theorem ready_inv {i : Instr} {n : Byte} (count : Nat) (fits : commandFits n i) (low : 1 ≤ n.toNat) :
    (ready i n count).Inv := by
  obtain ⟨i1, i2, i3, i4, i5, i6, i7, i8, i9, i10, i11, i12, i13, i14, i15, i16, i17⟩ := begun_inv fits low
  exact ⟨i1, i2, i3, i4, i5, i6, i7, i8, i9, i10, i11, i12, i13, i14, i15, i16, i17⟩

theorem ready_to_send {i : Instr} {n : Byte} {count : Nat} (fits : commandFits n i) (low : 1 ≤ n.toNat)
    (frames : frameCount i = some count) : ReadyToSend (ready i n count) i count [] :=
  ⟨ready_inv count fits low, rfl, rfl, frames, rfl, rfl, (List.append_nil _).symm⟩

theorem clear_fits (n : Byte) : commandFits n .clear := by simp [commandFits, frameCount]
theorem line_fits : commandFits 2 (.writeLine 7 [0xAA, 0x55]) := by simp [commandFits, frameCount]
theorem device_fits : commandFits 2 (.writeDevice 1 0x0F 0x01) := by simp [commandFits, frameCount]
theorem text_fits (n : Byte) : commandFits n (.renderText [0x41] (-7)) := by simp [commandFits, frameCount]

/-! ### The commands, against section 2 -/

/-- Section 2.2, line 3. -/
theorem test_configure :
    ∃ t, step (State.reset.withFetchWord 32 0x04000000) = .next t ∧ t.n = 4 ∧ t.mode = .idle ∧ t.status = .ok ∧
      t.trace = [.done .ok] := ⟨_, rfl, by decide⟩
/-- Section 2.2, lines 2 and 4. -/
theorem test_configure_rejects :
    (∃ t, exec (.configure 0) State.reset = .next t ∧ t.mode = .unconfigured ∧ t.status = .configError) ∧
    (∃ t, exec (.configure 2) (idle 4) = .next t ∧ t.mode = .idle ∧ t.n = 4 ∧ t.status = .configError) :=
  ⟨⟨_, rfl, by decide⟩, ⟨_, rfl, by decide⟩⟩
/-- Section 2.2, line 1. -/
theorem test_clear_unconfigured :
    ∃ t, step (State.reset.withFetchWord 32 0x00000002) = .next t ∧ t.mode = .unconfigured ∧
      t.trace = [.done .configError] := ⟨_, rfl, by decide⟩
/-- Section 2.4, N = 2: the pair of frame 7. -/
theorem test_clear : framePair Config.glyph 2 .clear 7 1 = some (0x08, 0x00) := by decide
/-- Section 2.3, first line: the pair, and the frame's bytes. -/
theorem test_bcastCmd :
    frameEvents (framePairs Params.default 2 (.bcastCmd .intensity 0x07) 0) =
      [.sel .assert, .answered .ok, .tx 0x0A, .answered .ok, .tx 0x07, .answered .ok, .tx 0x0A, .answered .ok,
       .tx 0x07, .answered .ok, .sel .deassert, .answered .ok] := by decide
/-- Section 2.5, line 2: an unnamed code is sent. -/
theorem test_bcastRaw : framePair Config.glyph 2 (.bcastRaw 0x0D 0xFF) 0 1 = some (0x0D, 0xFF) := by decide
/-- Section 2.6, lines 3 and 6. -/
theorem test_writeLine :
    framePairs Params.default 3 (.writeLine 7 [1, 2, 3]) 0 = [(8, 1), (8, 2), (8, 3)] := by decide
theorem test_writeLine_index_first :
    ∃ t, exec (.writeLine 8 [0x01]) (idle 2) = .next t ∧ t.status = .invalidLineIndex ∧ t.mode = .idle ∧
      t.trace = [.done .invalidLineIndex] := ⟨_, rfl, by decide⟩
/-- Section 2.7, lines 2 and 6. -/
theorem test_writeDevice :
    framePairs Params.default 3 (.writeDevice 0 0x0A 0x0F) 0 = [(0, 0), (0, 0), (0x0A, 0x0F)] := by decide
theorem test_writeDevice_index :
    ∃ t, exec (.writeDevice 3 0x0A 0x0F) (idle 3) = .next t ∧ t.status = .invalidDeviceIndex := ⟨_, rfl, by decide⟩

/-- The rows 0 of the fixture table `GF` (section 0). -/
def fixtureRow0 (c : Byte) (_r : Nat) : Byte := if c = 0x41 then 0x81 else if c = 0x42 then 0xFF else 0x00
/-- V-RT1, row 0, slots 0 and 1: `x_pos` = -3, -1 (the witness of `90_conflicts.md` C1). -/
theorem test_renderText_negative :
    (List.range 2).map (fun d => compose fixtureRow0 2 [0x41, 0x42] (-3) d 0) = [0x1F, 0xF0] ∧
    (List.range 2).map (fun d => compose fixtureRow0 2 [0x41, 0x42] (-1) d 0) = [0x7F, 0xC0] := by decide
/-- V-RT1, row 0: `x_pos` = 0, 3, 15, and the most negative. -/
theorem test_renderText :
    (List.range 2).map (fun d => compose fixtureRow0 2 [0x41, 0x42] 0 d 0) = [0xFF, 0x81] ∧
    (List.range 2).map (fun d => compose fixtureRow0 2 [0x41, 0x42] 3 d 0) = [0xFC, 0x08] ∧
    (List.range 2).map (fun d => compose fixtureRow0 2 [0x41, 0x42] 15 d 0) = [0x80, 0x00] ∧
    (List.range 2).map (fun d => compose fixtureRow0 2 [0x41, 0x42] (-2147483648) d 0) = [0x00, 0x00] := by decide
/-- Section 2.2: ROTATE on an unconfigured block (also T7). -/
theorem test_rotate :
    ∃ t, exec (.rotate ⟨1, 0, 0, 0, 0, 0, 0, 0⟩) State.reset = .next t ∧ t.res = ⟨0, 0, 0, 0, 0, 0, 0, 1⟩ ∧
      t.mode = .unconfigured ∧ t.status = .ok := ⟨_, rfl, by decide⟩
/-- Rule R151 by hand: row 2, column 5 goes to row 7 - 5 = 2, column 2. -/
theorem test_rotate_bit : rot ⟨0, 0, 0x20, 0, 0, 0, 0, 0⟩ = ⟨0, 0, 0x04, 0, 0, 0, 0, 0⟩ := by decide

/-! ### The pairs at a chip (rule R58) -/

theorem test_pair_latches :
    ∃ t, step (State.reset.withFetchWord 16 0x0455) = .next t ∧ chipCell t 0 0x04 = some 0x55 ∧
      chipCell t 0 0x05 = none ∧ t.chain.frameOpen = false ∧ t.line = some .deassert ∧ t.trace = [] :=
  ⟨_, rfl, by decide⟩
theorem test_pair_control :
    ∃ t, step (State.reset.withFetchWord 16 0x0F01) = .next t ∧ chipCell t 0 0x0F = some 0x01 := ⟨_, rfl, by decide⟩
/-- Rule R60 and entry U14: with no promise the chip's registers become indeterminate, with one they stay. -/
theorem test_pair_noop :
    (∃ t, exec (.pairNoop 0) (writeChipCell 0 4 9 State.reset) = .next t ∧ chipCell t 0 4 = none) ∧
    (∃ t, exec (.pairNoop 0) { writeChipCell 0 4 9 State.reset with
        params := { Params.default with noop := .zeroData } } = .next t ∧ chipCell t 0 4 = some 9) :=
  ⟨⟨_, rfl, by decide⟩, ⟨_, rfl, by decide⟩⟩

/-- Rules R56 and R203: a byte abandoned by a RESET counts in its own frame, still open, but not in the next one. -/
theorem test_late_byte :
    let s := { idle 2 with abandoned := [.tx 5], chain := { Chain.initial with frameOpen := true } }
    (∃ t, step (next [.answer .xfer .ok] s) = .next t ∧ t.chain.cnt = 1 ∧ t.chain.sr = [5] ∧ t.abandoned = []) ∧
    (∃ t, step (next [.answer .xfer .ok] (chainAssertOk s)) = .next t ∧ t.chain.cnt = 0 ∧ t.chain.sr = [5]) :=
  ⟨⟨_, rfl, by decide⟩, ⟨_, rfl, by decide⟩⟩
theorem test_late_byte_failed :
    let s := { idle 2 with abandoned := [.tx 5], chain := { Chain.initial with frameOpen := true, sr := [7] } }
    (∃ t, step (next [.answer .xfer (.err 1)] s) = .next t ∧ t.chain.bad = true ∧ t.chain.sr = []) ∧
    (∃ t, step (next [.answer .xfer (.err 1)] (chainAssertOk s)) = .next t ∧ t.chain.bad = false ∧ t.chain.sr = []) :=
  ⟨⟨_, rfl, by decide⟩, ⟨_, rfl, by decide⟩⟩

/-! ### The sequencer (rules R101 to R104) -/

theorem test_assert_cancelled :
    ∃ t, step { begun .clear 2 with cancelPend := true } = .next t ∧ t.trace = [.done .cancelled] ∧ t.mode = .idle ∧
      t.status = .cancelled := ⟨_, rfl, by decide⟩
theorem test_byte_failed :
    ∃ t, step (next [.answer .xfer (.err 7)] { begun .clear 2 with seq := .waitByte 0 1 .data, outstanding := some (.tx 0) }) =
        .next t ∧ t.seq = .release 0 ∧ t.err = some (.transportError 7) := ⟨_, rfl, by decide⟩
theorem test_release_first_error :
    ∃ t, step (next [.answer .seldrv (.err 2)] { begun .clear 2 with
        seq := .waitRelease 0, outstanding := some (.sel .deassert), err := some (.transportError 7) }) = .next t ∧
      t.status = .transportError ∧ t.errInfo = .transport 7 ∧ t.selState = .unknown ∧ t.line = none :=
  ⟨_, rfl, by decide⟩

/-! ### Memory and reset -/

theorem test_memory_canonical : Memory.write (Memory.write [] 5 1) 3 2 = [(3, 2), (5, 1)] := by decide
theorem test_memory_overwrite : Memory.write (Memory.write [] 5 1) 5 2 = [(5, 2)] := by decide
theorem test_reset_memories_wf : State.reset.buf.wf ∧ State.reset.chain.creg.wf := by decide
theorem test_reset_step : step State.reset = .next State.reset := rfl


/-! ### Witnesses: for every statement with hypotheses, states and operands that meet them -/

theorem witness_DecodeInvertsEncode :
    (Instr.writeLine 7 [1, 2, 3, 4, 5, 6, 7, 8]).WellFormed 8 ∧ (Instr.renderText [] (-2147483648)).WellFormed 8 ∧
    (Instr.renderText [1] 2147483647).WellFormed 8 ∧ (Instr.rotate Matrix8.zero).WellFormed 8 := by decide

theorem witness_EncodeInvertsPairDecode :
    decodePair 0x0CFF = .ok (.pairOnOff 0xFF) ∧ decodePair 0x0F00 = .ok (.pairDisplayTest 0x00) := by decide

/-- Two spellings of one WRITE_LINE, one of a RENDER_TEXT, one of a BCAST_RAW. -/
theorem witness_UnreadFieldsAreIgnored :
    (let w0 : Word32 := 0x03AB1204
     let w0' : Word32 := 0x03000004
     let w1 : Word32 := 0xDEAD0002
     let w1' : Word32 := 0x00000002
     let buf : Nat → Byte := fun a => if a = 2 then 0x99 else 0x11
     let buf' : Nat → Byte := fun _ => 0x11
     fieldOpc w0 = fieldOpc w0' ∧ (fieldOpc w0 ∈ [0x01, 0x03, 0x05] → fieldA w0 = fieldA w0' ∧ fieldB w0 = fieldB w0') ∧
     (fieldOpc w0 ∈ [0x00, 0x04, 0x05] → fieldC w0 = fieldC w0') ∧
     (fieldOpc w0 ∈ [0x04, 0x06, 0x07] → fieldLen w1 = fieldLen w1' ∧ ∀ a, a < fieldLen w1 → buf a = buf' a) ∧
     (fieldOpc w0 = 0x06 → (5 : Word32) = 6)) ∧
    (let w0 : Word32 := 0x00FF0D03
     let w0' : Word32 := 0x99FF0D03
     fieldOpc w0 = fieldOpc w0' ∧ fieldA w0 = fieldA w0' ∧ fieldB w0 = fieldB w0') := by decide

/-- One state for each of the four cases of rule R85, at the boundary of each. -/
theorem witness_IllegalDescriptorsEndIllegalCommand :
    (let s := next [.host .start] { State.reset with w0 := 0x00000008 }
     s.schedule = .host .start :: [] ∧ s.mode ≠ .busy ∧ 0x08 ≤ (fieldOpc s.w0).toNat) ∧
    (let s := next [.host .start] { State.reset with w0 := 0x00001001 }
     s.schedule = .host .start :: [] ∧ s.mode ≠ .busy ∧ fieldOpc s.w0 = 0x01 ∧ 0x10 ≤ (fieldA s.w0).toNat) ∧
    (let s := next [.host .start] { State.reset with w0 := 0x00000E01 }
     s.schedule = .host .start :: [] ∧ s.mode ≠ .busy ∧ fieldOpc s.w0 = 0x01 ∧ fieldA s.w0 = 0x0E) ∧
    (let s := next [.host .start] { State.reset with w0 := 0x00000007, w1 := 9 }
     s.schedule = .host .start :: [] ∧ s.mode ≠ .busy ∧ fieldOpc s.w0 = 0x07 ∧ fieldLen s.w1 ≠ 8) ∧
    (let s := next [.host .start] { State.reset with w0 := 0x00000004, w1 := 9, params := { Params.default with bufMax := 8 } }
     s.schedule = .host .start :: [] ∧ s.mode ≠ .busy ∧ fieldOpc s.w0 ∈ [0x04, 0x06, 0x07] ∧
       s.params.bufMax < fieldLen s.w1) := by decide

theorem witness_StartRunsDecodedCommand :
    let s := next [.host .start] { State.reset with w0 := 0x04000000 }
    s.schedule = .host .start :: [] ∧ s.mode ≠ .busy ∧
      decodeDescriptor s.params.bufMax (bufByte s) s.w0 s.w1 s.w2 = .ok (.configure 4) := by decide

theorem witness_LatchRunsDecodedPair :
    let s := State.reset.withFetchWord 16 0x0F01
    s.schedule = .answer .seldrv .ok :: [] ∧ s.abandoned = .sel .deassert :: [] ∧ s.chain.chips = some 1 ∧
      s.chain.frameOpen = true ∧ s.chain.bad = false ∧ s.chain.cnt = 2 ∧ s.chain.sr = [0x01, 0x0F] ∧
      decodePair (packPair 0x0F 0x01) = .ok (.pairDisplayTest 0x01) := by decide

theorem witness_PortWritesAreLockedWhileBusy :
    (begun .clear 2).mode = .busy ∧ (idle 2).mode ≠ .busy ∧ 65534 < (idle 2).params.bufMax ∧
    (idle 2).params.bufMax ≤ 65535 ∧
    (next [.host (.writeBuf 65534 1)] (idle 2)).schedule = .host (.writeBuf 65534 1) :: [] ∧
    (next [.host (.writeW0 1)] (begun .clear 2)).schedule = .host (.writeW0 1) :: [] ∧
    (next [.host (.writeW0 1)] (idle 2)).schedule = .host (.writeW0 1) :: [] ∧
    (next [.host (.writeW1 1)] (idle 2)).schedule = .host (.writeW1 1) :: [] ∧
    (next [.host (.writeW2 1)] (idle 2)).schedule = .host (.writeW2 1) :: [] ∧
    (next [.host (.writeBuf 65535 1)] (idle 2)).schedule = .host (.writeBuf 65535 1) :: [] := by decide

theorem witness_PortReadsHaveNoSideEffect :
    (next [.host (.read (.res 7))] (idle 2)).schedule = .host (.read (.res 7)) :: [] ∧
    (next [.host (.read .status)] (begun .clear 2)).schedule = .host (.read .status) :: [] := by decide

theorem witness_CancelPendsOnlyWhileBusy :
    (next [.host .cancel] (begun .clear 2)).schedule = .host .cancel :: [] ∧ (begun .clear 2).mode = .busy ∧
    (next [.host .cancel] (idle 2)).schedule = .host .cancel :: [] ∧ (idle 2).mode ≠ .busy := by decide

theorem witness_ResetSetsBlockState : (next [.host .reset] (idle 2)).schedule = .host .reset :: [] := by decide

theorem witness_ConfigureSetsLengthOnce :
    (State.reset.mode = .unconfigured ∧ 1 ≤ (1 : Byte).toNat ∧ (255 : Byte).toNat ≤ State.reset.params.nMax) ∧
    (idle 4).mode = .idle ∧ (State.reset.mode = .unconfigured ∧ (0 : Byte).toNat < 1) ∧
    (let s := { State.reset with params := { Params.default with nMax := 8 } }
     s.mode = .unconfigured ∧ s.params.nMax < (9 : Byte).toNat ∧ (8 : Byte).toNat ≤ s.params.nMax) := by decide

theorem witness_UncheckedCommandsBegin :
    Instr.clear ∈ [Instr.bcastCmd .noop 0, .clear, .bcastRaw 0 0, .renderText [] 0] ∧ (idle 2).mode = .idle ∧
    State.reset.mode = .unconfigured := by decide

theorem witness_WriteLineChecksThenBegins :
    State.reset.mode = .unconfigured ∧ (idle 2).mode = .idle ∧ 8 ≤ (8 : Byte).toNat ∧ (7 : Byte).toNat < 8 ∧
    ([1] : List Byte).length ≠ (idle 2).n.toNat ∧ ([1, 2] : List Byte).length = (idle 2).n.toNat := by decide

theorem witness_WriteDeviceChecksThenBegins :
    State.reset.mode = .unconfigured ∧ (idle 2).mode = .idle ∧ (idle 2).n.toNat ≤ (2 : Byte).toNat ∧
    (1 : Byte).toNat < (idle 2).n.toNat := by decide

theorem witness_RotateWritesResult : State.reset.mode ≠ .busy ∧ (idle 2).mode ≠ .busy := by decide

theorem witness_StoringPairsWriteOneCell :
    (Instr.pairRow0 9, (0x01 : Byte)) ∈ [
      (Instr.pairRow0 9, (0x01 : Byte)), (.pairRow1 9, 0x02), (.pairRow2 9, 0x03), (.pairRow3 9, 0x04),
      (.pairRow4 9, 0x05), (.pairRow5 9, 0x06), (.pairRow6 9, 0x07), (.pairRow7 9, 0x08), (.pairDecodeMode 9, 0x09),
      (.pairIntensity 9, 0x0A), (.pairScanLimit 9, 0x0B), (.pairOnOff 9, 0x0C), (.pairDisplayTest 9, 0x0F)] ∧
    ¬((1 : Nat) = State.reset.chain.latchPos ∧ (0x01 : Byte) = 0x01) := by decide

theorem witness_NoopPairIsHarmlessOnlyAsPromised :
    (let s := { State.reset with params := { Params.default with noop := .anyData } }; s.params.noop = .anyData) ∧
    (let s := { State.reset with params := { Params.default with noop := .zeroData } }
     s.params.noop = .zeroData ∧ (1 : Byte) ≠ 0) ∧
    State.reset.params.noop = .nothing := by decide

theorem witness_AssertStep :
    (let s := { begun .clear 2 with cancelPend := true, schedule := [.sequencer] }
     s.err = none ∧ s.schedule = .sequencer :: [] ∧ s.seq = .assert 0 ∧ s.mode = .busy ∧ s.cancelPend = true) ∧
    (let s := next [.sequencer] (begun .clear 2)
     s.err = none ∧ s.schedule = .sequencer :: [] ∧ s.seq = .assert 0 ∧ s.cancelPend = false) ∧
    (let s := { begun .clear 2 with seq := .waitAssert 0, outstanding := some (.sel .assert), schedule := [.answer .seldrv .ok] }
     s.err = none ∧ s.schedule = .answer .seldrv .ok :: [] ∧ s.seq = .waitAssert 0 ∧ (∀ q ∈ s.abandoned, requestedOf q ≠ .seldrv) ∧
       s.outstanding = some (.sel .assert)) ∧
    (let s := { begun .clear 2 with
        seq := .waitAssert 0, outstanding := some (.sel .assert), schedule := [.answer .seldrv (.err 3)] }
     s.err = none ∧ s.schedule = .answer .seldrv (.err 3) :: [] ∧ s.seq = .waitAssert 0 ∧ (∀ q ∈ s.abandoned, requestedOf q ≠ .seldrv) ∧
       s.outstanding = some (.sel .assert)) := by decide

theorem witness_ByteSteps :
    (let s := { begun .clear 2 with seq := .byte 0 1 .data, cancelPend := true, schedule := [.sequencer] }
     s.err = none ∧ s.schedule = .sequencer :: [] ∧ s.seq = .byte 0 1 .data ∧ s.cancelPend = true) ∧
    (let s := { begun .clear 2 with seq := .byte 7 1 .data, schedule := [.sequencer] }
     s.err = none ∧ s.schedule = .sequencer :: [] ∧ s.seq = .byte 7 1 .data ∧ s.cancelPend = false ∧
       s.inFlight = some .clear ∧ framePair (glyphRow s.params) s.n.toNat .clear 7 1 = some (8, 0)) ∧
    (let s := { begun .clear 2 with seq := .waitByte 0 1 .data, outstanding := some (.tx 0), schedule := [.answer .xfer .ok] }
     s.err = none ∧ s.schedule = .answer .xfer .ok :: [] ∧ s.seq = .waitByte 0 1 .data ∧ (∀ q ∈ s.abandoned, requestedOf q ≠ .xfer) ∧
       s.outstanding = some (.tx 0) ∧ s.n.toNat ≤ 1 + 1) ∧
    (let s := { begun .clear 2 with
        seq := .waitByte 0 0 .data, outstanding := some (.tx 0), schedule := [.answer .xfer (.err 3)] }
     s.err = none ∧ s.schedule = .answer .xfer (.err 3) :: [] ∧ s.seq = .waitByte 0 0 .data ∧ (∀ q ∈ s.abandoned, requestedOf q ≠ .xfer) ∧
       s.outstanding = some (.tx 0) ∧ 0 + 1 < s.n.toNat) := by decide

theorem witness_ReleaseStep :
    (let s := { begun .clear 2 with seq := .release 7, schedule := [.sequencer] }
     s.schedule = .sequencer :: [] ∧ s.seq = .release 7) ∧
    (let s := { begun .clear 2 with
        seq := .waitRelease 6, outstanding := some (.sel .deassert), schedule := [.answer .seldrv .ok] }
     s.schedule = .answer .seldrv .ok :: [] ∧ s.seq = .waitRelease 6 ∧ (∀ q ∈ s.abandoned, requestedOf q ≠ .seldrv) ∧
       s.outstanding = some (.sel .deassert) ∧ s.mode = .busy ∧ s.inFlight = some .clear ∧
       frameCount .clear = some 8 ∧ 6 + 1 < 8 ∧ s.err = none) ∧
    (let s := { begun .clear 2 with
        seq := .waitRelease 7, outstanding := some (.sel .deassert), schedule := [.answer .seldrv (.err 1)], err := some .cancelled }
     s.schedule = .answer .seldrv (.err 1) :: [] ∧ s.seq = .waitRelease 7 ∧ (∀ q ∈ s.abandoned, requestedOf q ≠ .seldrv) ∧
       s.outstanding = some (.sel .deassert) ∧ s.mode = .busy ∧ s.inFlight = some .clear ∧
       frameCount .clear = some 8 ∧ ¬ 7 + 1 < 8) := by decide

theorem witness_CommandPairs :
    7 < 8 ∧ ([0xAA, 0x55] : List Byte)[1]? = some 0x55 ∧ 1 < 2 ∧ (1 : Byte).toNat < 2 := by decide

theorem witness_CommandsExpand : 1 ≤ (1 : Byte).toNat ∧ (1 : Byte).toNat ≤ 8 ∧ 1 ≤ (8 : Byte).toNat ∧ (8 : Byte).toNat ≤ 8 := by
  decide

theorem witness_RowsOutsideTextAreSentinel :
    (1 < ([0x41, 0x42] : List Byte).length ∧ (1 : Int) = (1 : Nat)) ∧ (-1 : Int) < 0 ∧
    ((([0x41, 0x42] : List Byte).length : Nat) : Int) ≤ 2 := by decide

theorem witness_ComposeBlendsNeighbours :
    charShift 8 = 0 ∧ (charShift (-7) = -((7 : Nat) : Int) ∧ 1 ≤ 7) ∧ (charShift (-9) = -((1 : Nat) : Int) ∧ 1 ≤ 1) ∧
    (charShift 7 = ((7 : Nat) : Int) ∧ 1 ≤ 7) ∧ charShift 9 = ((1 : Nat) : Int) := by decide

theorem witness_ComposeClosedForm : 1 ≤ 1 ∧ 0 < 1 ∧ 7 < 8 ∧ 7 < 8 := by decide

theorem witness_IndexArithmeticFits :
    (-2 ^ 31 ≤ (-2147483648 : Int) ∧ (-2147483648 : Int) < 2 ^ 31 ∧ 255 ≤ 255 ∧ 0 < 255) ∧
    (-2 ^ 31 ≤ (2147483647 : Int) ∧ (2147483647 : Int) < 2 ^ 31 ∧ 254 < 255) := by decide

theorem witness_ChainSteps :
    (holding 0 0).chain.frameOpen = true ∧
    (let s := { holding 0 0 with chain := { (holding 0 0).chain with bad := true } }
     s.chain.frameOpen = true ∧ s.chain.bad = true) ∧
    (let s := { holding 0 0 with chain := { (holding 0 0).chain with cnt := 1 } }
     s.chain.frameOpen = true ∧ s.chain.cnt ≠ 2 * chainLength s) := by decide

/-- Two chips, one with a control pair, one with an unnamed code. -/
theorem witness_CompleteFrameLatches :
    let s := { idle 2 with chain := { Chain.initial with sr := [1, 0x0F, 2, 0x0E], frameOpen := true, cnt := 4 } }
    s.chain.frameOpen = true ∧ s.chain.bad = false ∧ s.chain.cnt = 2 * chainLength s ∧ chainLength s ≤ 2 ∧
      (0 < chainLength s ∧ s.chain.sr[2 * 0 + 1]? = some 0x0F ∧ s.chain.sr[2 * 0]? = some 1) ∧
      (1 < chainLength s ∧ s.chain.sr[2 * 1 + 1]? = some 0x0E ∧ s.chain.sr[2 * 1]? = some 2) := by decide

/-- The no-op pair, as promised and not. -/
theorem witness_CompleteFrameLatches_noop :
    (let s := { holding 0 0 with params := { Params.default with noop := .zeroData } }
     s.chain.cnt = 2 * chainLength s ∧ s.chain.sr[1]? = some 0 ∧ s.chain.sr[0]? = some 0 ∧ s.params.noop = .zeroData) ∧
    (let s := { holding 0 1 with params := { Params.default with noop := .zeroData } }
     s.chain.cnt = 2 * chainLength s ∧ s.chain.sr[1]? = some 0 ∧ s.chain.sr[0]? = some 1 ∧ (1 : Byte) ≠ 0) ∧
    ((holding 0x0C 1).chain.cnt = 2 * chainLength (holding 0x0C 1) ∧ (0x0C : Byte).toNat ≤ 0x0C) ∧
    (holding 0x10 1).chain.sr[1]? = some 0x10 := by decide

theorem witness_SlotReachesPosition :
    let s := chainAssertOk (idle 2)
    s.chain.frameOpen = true ∧ ([(1, 2), (3, 4)] : List (Byte × Byte)).length = chainLength s ∧ 1 < chainLength s := by
  decide

/-- The select output asserted for the next frame while the serial primitive still owes the answer to an abandoned byte. -/
theorem witness_LateByteDoesNotSpoilTheNextFrame :
    let s := next [.answer .xfer (.err 1)] (chainAssertOk { idle 2 with abandoned := [.tx 5] })
    s.schedule = .answer .xfer (.err 1) :: [] ∧ s.abandoned = [] ++ .tx 5 :: [] ∧
      (∀ q ∈ ([] : List Request), requestedOf q ≠ .xfer) ∧ s.chain.stale ≠ 0 ∧ s.chain.frameOpen = true ∧
      s.chain.bad = false ∧ s.chain.cnt = 0 ∧ ([(1, 2), (3, 4)] : List (Byte × Byte)).length = chainLength s ∧
      1 < chainLength s := by decide

/-- Abandoned before the frame's first byte was answered. -/
theorem witness_AbandonedByteOfTheOpenFrameCounts :
    let s := { next [.answer .xfer (.err 1)] (chainAssertOk (idle 2)) with abandoned := [.tx 5] }
    s.schedule = .answer .xfer (.err 1) :: [] ∧ s.abandoned = [] ++ .tx 5 :: [] ∧
      (∀ q ∈ ([] : List Request), requestedOf q ≠ .xfer) ∧ s.chain.stale = 0 ∧ s.chain.frameOpen = true := by decide

theorem witness_StepKeepsInvariant :
    (ready .clear 2 8).Inv ∧ ∃ t, step (ready .clear 2 8) = .next t ∧ t.outstanding = some (.sel .assert) :=
  ⟨ready_inv 8 (clear_fits 2) (by decide), _, rfl, by decide⟩

theorem witness_StepKeepsSelectDiscipline :
    (ready .clear 2 8).Inv ∧ Bracketed (ready .clear 2 8) ∧ ¬ resetsWhileBusy (ready .clear 2 8) ∧
      ∃ t, step (ready .clear 2 8) = .next t :=
  ⟨ready_inv 8 (clear_fits 2) (by decide), ⟨.closed, rfl, rfl⟩,
    (fun (h : resetsWhileBusy (ready .clear 2 8)) => by cases h.2), _, rfl⟩

theorem reset_inv_with (turns : List Turn) : (next turns State.reset).Inv :=
  ⟨default_params_valid, List.Pairwise.nil, by simp [next, State.reset], List.Pairwise.nil, by simp [next, State.reset],
    by simp [next, State.reset], by simp [next, State.reset], by simp [next, State.reset], trivial, rfl, trivial,
    by simp [next, State.reset], by simp [next, State.reset, Chain.initial], by simp [next, State.reset, Chain.initial],
    by simp [next, State.reset, Chain.initial], Nat.zero_le _, fun h => absurd rfl h⟩

theorem witness_OnlyBadBufWriteStops :
    (next [.host (.writeBuf 65535 1)] State.reset).Inv ∧
      step (next [.host (.writeBuf 65535 1)] State.reset) = .fault (.noSuchBufByte 65535) :=
  ⟨reset_inv_with _, rfl⟩

theorem witness_SuccessfulCommandSendsItsFrames :
    ReadyToSend (ready (.bcastRaw 5 0x3C) 1 1) (.bcastRaw 5 0x3C) 1 [] ∧ ReadyToSend (ready .clear 255 8) .clear 8 [] :=
  ⟨ready_to_send (by simp [commandFits, frameCount]) (by decide) rfl, ready_to_send (clear_fits 255) (by decide) rfl⟩

theorem witness_WriteLineReachesTheChips :
    ReadyToSend (ready (.writeLine 7 [0xAA, 0x55]) 2 1) (.writeLine 7 [0xAA, 0x55]) 1 [] ∧
      chainLength (ready (.writeLine 7 [0xAA, 0x55]) 2 1) = (ready (.writeLine 7 [0xAA, 0x55]) 2 1).n.toNat :=
  ⟨ready_to_send line_fits (by decide) rfl, rfl⟩

theorem witness_WriteDeviceChangesOneCell :
    let s := { ready (.writeDevice 1 0x0F 0x01) 2 1 with params := { Params.default with noop := .zeroData } }
    ReadyToSend s (.writeDevice 1 0x0F 0x01) 1 [] ∧ chainLength s = s.n.toNat ∧ s.params.noop ≠ .nothing ∧
      (0x0F : Byte) = 0x0F := by
  obtain ⟨i1, i2, i3, i4, i5, i6, i7, i8, i9, i10, i11, i12, i13, i14, i15, i16, i17⟩ := ready_inv 1 device_fits (by decide)
  exact ⟨⟨⟨⟨by decide, by decide, by decide, by decide, List.Pairwise.nil⟩, i2, i3, i4, i5, i6, i7, i8, i9, i10, i11, i12,
    i13, i14, i15, i16, i17⟩, rfl, rfl, rfl, rfl, rfl, (List.append_nil _).symm⟩, rfl, by decide, rfl⟩

theorem witness_RenderTextShowsTheText :
    ReadyToSend (ready (.renderText [0x41] (-7)) 1 8) (.renderText [0x41] (-7)) 8 [] ∧
      chainLength (ready (.renderText [0x41] (-7)) 1 8) = (ready (.renderText [0x41] (-7)) 1 8).n.toNat ∧
      7 < 8 * (ready (.renderText [0x41] (-7)) 1 8).n.toNat ∧ 7 < 8 :=
  ⟨ready_to_send (text_fits 1) (by decide) rfl, rfl, by decide, by decide⟩

/-- Two chips to the block, three on the wire. -/
theorem witness_WrongLengthSpoilsTheChips :
    let s := { ready .clear 2 8 with chain := { Chain.initial with chips := some 3 } }
    ReadyToSend s .clear 8 [] ∧ chainLength s ≠ s.n.toNat := by
  obtain ⟨i1, i2, i3, i4, i5, i6, i7, i8, i9, i10, i11, i12, i13, i14, i15, i16, i17⟩ := ready_inv 8 (clear_fits 2) (by decide)
  exact ⟨⟨⟨i1, i2, i3, List.Pairwise.nil, i5, i6, i7, i8, i9, i10, i11, i12, by decide, by simp [Chain.initial],
    by simp [ready, begun], Nat.zero_le _, fun h => absurd rfl h⟩, rfl, rfl, rfl, rfl, rfl, (List.append_nil _).symm⟩, by decide⟩

theorem witness_ClearDarkensEveryRow :
    ReadyToSend (ready .clear 2 8) .clear 8 [] ∧ chainLength (ready .clear 2 8) = (ready .clear 2 8).n.toNat :=
  ⟨ready_to_send (clear_fits 2) (by decide) rfl, rfl⟩

theorem witness_RunningCommandEnds :
    (begun .clear 2).Inv ∧ (begun .clear 2).mode = .busy ∧ (begun .clear 2).schedule = [] :=
  ⟨begun_inv (clear_fits 2) (by decide), rfl, rfl⟩

theorem witness_ChipsChangeOnlyAtRelease :
    ∃ t, step (State.reset.withFetchWord 16 0x0455) = .next t ∧
      t.chain.creg ≠ (State.reset.withFetchWord 16 0x0455).chain.creg := ⟨_, rfl, by decide⟩

theorem witness_BlockNeverReadsTheChips : ∃ t, step (ready .clear 2 8) = .next t := ⟨_, rfl⟩

theorem witness_OnlyRotateWritesResult :
    let s := next [.host .start] { State.reset with
      w0 := 0x00000007, w1 := 8, buf := [(0, 1), (1, 0), (2, 0), (3, 0), (4, 0), (5, 0), (6, 0), (7, 0)] }
    ∃ t, step s = .next t ∧ t.res ≠ s.res := ⟨_, rfl, by decide⟩

theorem witness_OnlyConfigureWritesLength :
    ∃ t, step (State.reset.withFetchWord 32 0x04000000) = .next t ∧
      t.n ≠ (State.reset.withFetchWord 32 0x04000000).n := ⟨_, rfl, by decide⟩

theorem witness_StatusIsWrittenAtDone :
    let s := next [.answer .seldrv (.err 2)] { begun .clear 2 with seq := .waitRelease 0, outstanding := some (.sel .deassert) }
    ∃ t, step s = .next t ∧ t.status ≠ s.status ∧ t.errInfo ≠ s.errInfo := ⟨_, rfl, by decide⟩

theorem witness_FirstErrorStays :
    let s := next [.sequencer] { begun .clear 2 with seq := .release 0, err := some .cancelled }
    ∃ t, step s = .next t ∧ s.err = some .cancelled := ⟨_, rfl, rfl⟩

theorem witness_OperandsLockedWhileBusy :
    let s := next [.host (.writeW0 1)] (begun .clear 2)
    ∃ t, step s = .next t ∧ s.mode = .busy ∧ ∀ rest, s.schedule ≠ .host .reset :: rest :=
  ⟨_, rfl, rfl, by simp [next]⟩

theorem witness_ParametersFixedTraceGrows : ∃ t, step (ready .clear 2 8) = .next t ∧ t.trace = [.sel .assert] :=
  ⟨_, rfl, by decide⟩

/-- The step before is `witness_StepKeepsInvariant`'s; its next state waits for the answer. -/
theorem witness_OneRequestAtATime :
    let s := { begun .clear 2 with
      seq := .waitAssert 0, outstanding := some (.sel .assert), schedule := [.answer .seldrv .ok] }
    s.Inv ∧ (∃ t, step s = .next t) ∧ s.outstanding = some (.sel .assert) := by
  obtain ⟨i1, i2, i3, i4, i5, i6, i7, i8, i9, i10, i11, i12, i13, i14, i15, i16, i17⟩ := begun_inv (clear_fits 2) (by decide)
  exact ⟨⟨i1, i2, i3, i4, by simp [begun], i6, i7, i8, i9, rfl, rfl, i12, i13, i14, i15, i16, i17⟩, ⟨_, rfl⟩, rfl⟩

/-- The select output answers although the serial primitive still owes the answer to an older request (rule R13). -/
theorem witness_AbandonedAnswersAreDiscarded :
    let s := { idle 2 with abandoned := [.tx 5, .sel .deassert], schedule := [.answer .seldrv (.err 1)] }
    s.schedule = .answer .seldrv (.err 1) :: [] ∧ s.abandoned = [.tx 5] ++ .sel .deassert :: [] ∧
      requestedOf (.sel .deassert) = .seldrv ∧ ∀ q ∈ [Request.tx 5], requestedOf q ≠ .seldrv := by decide

theorem witness_ResetWhileBusyLeavesTheLine :
    (next [.host .reset] (begun .clear 2)).schedule = .host .reset :: [] ∧
      (next [.host .reset] (begun .clear 2)).mode = .busy := by decide

end Sys2Proof.Tests
end

section
/-! What only a turn of the host can change: the registers and buffers the host sees (rules R20 to R23) and the
parameters. Then the obligation on `RES`. -/

namespace Sys2Proof.Machine

/-- The operand registers, `BUF`, `N`, `RES` and the parameters of two states are the same. -/
structure SameRegisters (s t : State) : Prop where
  w0 : t.w0 = s.w0
  w1 : t.w1 = s.w1
  w2 : t.w2 = s.w2
  buf : t.buf = s.buf
  n : t.n = s.n
  res : t.res = s.res
  params : t.params = s.params

theorem SameRegisters.refl (s : State) : SameRegisters s s := ⟨rfl, rfl, rfl, rfl, rfl, rfl, rfl⟩

theorem SameRegisters.trans {s t u : State} (h : SameRegisters s t) (k : SameRegisters t u) : SameRegisters s u :=
  ⟨k.w0.trans h.w0, k.w1.trans h.w1, k.w2.trans h.w2, k.buf.trans h.buf, k.n.trans h.n, k.res.trans h.res,
    k.params.trans h.params⟩

theorem sameRegisters_of_onlyOutside {s t : State} (h : onlyOutside s t) : SameRegisters s t := by
  rw [h]
  exact ⟨rfl, rfl, rfl, rfl, rfl, rfl, rfl⟩

theorem SequencerMoved.sameRegisters {s t : State} (h : SequencerMoved s t) : SameRegisters s t := by
  cases h <;> exact ⟨rfl, rfl, rfl, rfl, rfl, rfl, rfl⟩

theorem BlockTook.sameRegisters {a : Answer} {s t : State} (h : BlockTook a s t) : SameRegisters s t := by
  cases h <;> exact ⟨rfl, rfl, rfl, rfl, rfl, rfl, rfl⟩

theorem environmentAnswer_sameRegisters {r : Request} {a : Answer} {s t : State}
    (h : environmentAnswer r a s = .next t) : SameRegisters s t := by
  obtain ⟨u, hu, outside, -⟩ := environmentAnswer_next r a s
  cases h.symm.trans hu
  exact sameRegisters_of_onlyOutside outside

theorem lateAnswer_sameRegisters {r : Request} {a : Answer} {s t : State}
    (h : lateAnswer r a s = .next t) : SameRegisters s t := by
  obtain ⟨u, hu, outside, -⟩ := lateAnswer_next r a s
  cases h.symm.trans hu
  exact sameRegisters_of_onlyOutside outside

theorem Answered.sameRegisters {c : Collaborator} {a : Answer} {s t : State} (h : Answered c a s t) :
    SameRegisters s t := by
  cases h with
  | discarded before r after t owed its oldest outside =>
    have removed : SameRegisters s { s with abandoned := before ++ after } := ⟨rfl, rfl, rfl, rfl, rfl, rfl, rfl⟩
    exact removed.trans (lateAnswer_sameRegisters outside)
  | taken r u t none_abandoned own its outside block =>
    have taken : SameRegisters s (takeAnswer a s) := ⟨rfl, rfl, rfl, rfl, rfl, rfl, rfl⟩
    exact (taken.trans (environmentAnswer_sameRegisters outside)).trans block.sameRegisters
  | nothingOwed none_abandoned none_own => exact .refl s

/-- Every step but a turn of the host keeps the registers. -/
theorem sameRegisters_or_hostDid {s t : State} (h : step s = .next t) :
    SameRegisters s t ∨
      ∃ act rest, s.schedule = .host act :: rest ∧ HostDid act { s with schedule := rest } t := by
  have scheduled : ∀ rest, SameRegisters s { s with schedule := rest } := fun _ => ⟨rfl, rfl, rfl, rfl, rfl, rfl, rfl⟩
  have drawn : SameRegisters s { s with draws := s.draws + 1 } := ⟨rfl, rfl, rfl, rfl, rfl, rfl, rfl⟩
  cases step_cases h with
  | host act rest _ turn did => exact .inr ⟨act, rest, turn, did⟩
  | sequencer rest _ turn did => exact .inl ((scheduled rest).trans did.sameRegisters)
  | answer c a rest _ turn did => exact .inl ((scheduled rest).trans did.sameRegisters)
  | freeSequencer _ turn enabled did => exact .inl did.sameRegisters
  | freeAnswer c _ turn waiting owes did => exact .inl (drawn.trans did.sameRegisters)
  | silent turn waiting notOwed => exact .inl (.refl s)

/-- An accepted command keeps `RES`, unless it is a ROTATE, which succeeds (rules R106, R151). -/
theorem Accepted.res {i : Instr} {s t : State} (h : Accepted i s t) :
    t.res = s.res ∨ ∃ m, i = .rotate m ∧ t.res = rot m ∧ t.status = .ok := by
  cases h with
  | error c plain notOk => exact .inl rfl
  | frames idle fits => exact .inl rfl
  | configured n is fresh low high => exact .inl rfl
  | rotated m is => exact .inr ⟨m, is, rfl, rfl⟩

@[simp] theorem raiseCancel_res (s : State) : (raiseCancel s).res = s.res := by
  unfold raiseCancel
  split <;> rfl

/-- A turn of the host keeps `RES`, unless it is a `RESET` or the `START` of a ROTATE. -/
theorem HostDid.res {act : HostAction} {s t : State} (h : HostDid act s t) :
    t.res = s.res ∨ act = .reset ∨
      ∃ m, act = .start ∧ s.mode ≠ .busy ∧ fetchCommand s = .ok (.rotate m) ∧ t.res = rot m ∧ t.status = .ok := by
  cases h with
  | wasReset is => exact .inr (.inl is)
  | accepted i _ is free spelt how =>
    rcases how.res with kept | ⟨m, rfl, written⟩
    · exact .inl kept
    · exact .inr (.inr ⟨m, is, free, spelt, written⟩)
  | cancelled is => exact .inl (raiseCancel_res s)
  | _ => exact .inl rfl

/-- Settles O50: only a turn of the host can change `RES`, and of those only a `RESET` and an accepted ROTATE do
(rules R23, R151). -/
theorem onlyRotateWritesResult : Obligations.OnlyRotateWritesResult := by
  intro s t h changed
  rcases sameRegisters_or_hostDid h with same | ⟨act, rest, turn, did⟩
  · exact absurd same.res changed
  · rcases did.res with kept | rfl | ⟨m, rfl, free, spelt, written, ok⟩
    · exact absurd kept changed
    · exact .inl ⟨rest, turn⟩
    · exact .inr ⟨rest, m, turn, free, spelt, written, ok⟩

end Sys2Proof.Machine
end

section
/-! Where the bytes of a frame end up in the shift registers (rules R45, R55 to R57). Then the obligation on the chip a
slot reaches. -/

namespace Sys2Proof.Machine

theorem chainTxOk_of_frameOpen {s : State} (opened : s.chain.frameOpen = true) (b : Byte) :
    chainTxOk b s = { s with chain := { s.chain with
      sr := (b :: s.chain.sr).take (2 * chainLength s), cnt := s.chain.cnt + 1 } } := if_pos opened

/-- Inside a frame, bytes answered `ok` are counted and go into the shift registers, the last one first; up to the chain's
2 bytes per chip, the places hold these bytes and then what was there before (rules R55, R56). -/
theorem foldl_chainTxOk_of_frameOpen {s : State} (opened : s.chain.frameOpen = true) (bs : List Byte) :
    ∃ sr, bs.foldl (fun u b => chainTxOk b u) s =
        { s with chain := { s.chain with sr := sr, cnt := s.chain.cnt + bs.length } } ∧
      sr.take (2 * chainLength s) = (bs.reverse ++ s.chain.sr).take (2 * chainLength s) := by
  induction bs generalizing s with
  | nil => exact ⟨s.chain.sr, rfl, rfl⟩
  | cons b bs ih =>
    have shifted := chainTxOk_of_frameOpen opened b
    have same : chainLength (chainTxOk b s) = chainLength s := by rw [shifted]; rfl
    obtain ⟨sr, after, places⟩ := ih (s := chainTxOk b s) (by rw [shifted]; exact opened)
    refine ⟨sr, ?_, ?_⟩
    · rw [List.foldl_cons, after, shifted, List.length_cons, Nat.add_right_comm, Nat.add_assoc]
    · rw [same, shifted] at places
      rw [places, List.reverse_cons, List.append_assoc, List.singleton_append, List.take_append, List.take_append,
        List.take_take, Nat.min_eq_left (Nat.sub_le ..)]

/-- Once as many bytes were shifted in as the chain holds, the shift registers hold these alone, the last one first. -/
theorem sr_getElem?_of_fullFrame {s : State} (opened : s.chain.frameOpen = true) {bs : List Byte}
    (full : bs.length = 2 * chainLength s) {k : Nat} (inside : k < 2 * chainLength s) :
    (bs.foldl (fun u b => chainTxOk b u) s).chain.sr[k]? = bs.reverse[k]? := by
  obtain ⟨sr, after, places⟩ := foldl_chainTxOk_of_frameOpen opened bs
  rw [List.take_left' (List.length_reverse.trans full)] at places
  rw [after, ← places, List.getElem?_take_of_lt inside]

theorem length_pairsBytes (pairs : List (Byte × Byte)) : (pairsBytes pairs).length = 2 * pairs.length := by
  simp [pairsBytes, List.length_flatMap, Nat.mul_comm]

/-- Of the bytes last sent first, the data byte of a pair comes right before its register byte. -/
theorem pairsBytes_reverse_getElem? {pairs : List (Byte × Byte)} {q : Byte × Byte} {p : Nat}
    (sent : pairs.reverse[p]? = some q) :
    (pairsBytes pairs).reverse[2 * p + 1]? = some q.1 ∧ (pairsBytes pairs).reverse[2 * p]? = some q.2 := by
  rw [pairsBytes, List.reverse_flatMap]
  generalize pairs.reverse = last at sent
  induction last generalizing p with
  | nil => cases sent
  | cons r last ih =>
    cases p with
    | zero =>
      cases sent
      exact ⟨rfl, rfl⟩
    | succ p => exact ih sent

/-- The chip at pos `p` holds the pair that was sent `p` slots before the last (rule R57). -/
theorem chipHolds_of_pairsSent {s : State} (opened : s.chain.frameOpen = true) {pairs : List (Byte × Byte)}
    (full : pairs.length = chainLength s) {p : Nat} (inside : p < chainLength s) :
    ∃ q, pairs[chainLength s - 1 - p]? = some q ∧
      ((pairsBytes pairs).foldl (fun u b => chainTxOk b u) s).chain.sr[2 * p + 1]? = some q.1 ∧
      ((pairsBytes pairs).foldl (fun u b => chainTxOk b u) s).chain.sr[2 * p]? = some q.2 := by
  have bytes : (pairsBytes pairs).length = 2 * chainLength s := by rw [length_pairsBytes, full]
  have slot : pairs.reverse[p]? = pairs[chainLength s - 1 - p]? := by rw [List.getElem?_reverse (full ▸ inside), full]
  obtain ⟨q, sent⟩ : ∃ q, pairs[chainLength s - 1 - p]? = some q := ⟨_, List.getElem?_eq_getElem (by omega)⟩
  obtain ⟨register, data⟩ := pairsBytes_reverse_getElem? (slot.trans sent)
  refine ⟨q, sent, ?_, ?_⟩
  · rw [sr_getElem?_of_fullFrame opened bytes (by omega), register]
  · rw [sr_getElem?_of_fullFrame opened bytes (by omega), data]

/-- Settles O36: the pair sent `p` slots before the last ends up in the chip at pos `p` (rule R57). -/
theorem slotReachesPosition : Obligations.SlotReachesPosition :=
  fun _ _ opened full _ inside => chipHolds_of_pairsSent opened full inside

end Sys2Proof.Machine
end

section
/-! Which descriptors are illegal, and what `START` does with one (rule R85). Then the obligation on the illegal
descriptors. -/

namespace Sys2Proof

/-- The codes that name no register (rules R81, R86). -/
theorem Register.ofCode_eq_none_iff (b : Byte) :
    Register.ofCode b = none ↔ b = 0x0D ∨ b = 0x0E ∨ 0x10 ≤ b.toNat := by
  revert b
  decide

/-- An opcode is one of the eight commands' or lies beyond them (rule R71). -/
theorem opcode_cases (opc : Byte) :
    opc = 0x00 ∨ opc = 0x01 ∨ opc = 0x02 ∨ opc = 0x03 ∨ opc = 0x04 ∨ opc = 0x05 ∨ opc = 0x06 ∨ opc = 0x07 ∨
      0x08 ≤ opc.toNat := by
  bv_omega

/-- The four cases of rule R85, on a block whose `BUF` holds `bufMax` bytes. -/
abbrev IllegalWords (bufMax : Nat) (w0 w1 : Word32) : Prop :=
  0x08 ≤ (fieldOpc w0).toNat ∨
  (fieldOpc w0 = 0x01 ∧ (fieldA w0 = 0x0D ∨ fieldA w0 = 0x0E ∨ 0x10 ≤ (fieldA w0).toNat)) ∨
  (fieldOpc w0 = 0x07 ∧ fieldLen w1 ≠ 8) ∨
  (fieldOpc w0 ∈ [0x04, 0x06, 0x07] ∧ bufMax < fieldLen w1)

/-- The decoder rejects exactly the descriptors of rule R85, opcode by opcode. -/
theorem decodeDescriptor_eq_error_iff (bufMax : Nat) (buf : Nat → Byte) (w0 w1 w2 : Word32) :
    (∃ e, decodeDescriptor bufMax buf w0 w1 w2 = .error e) ↔ IllegalWords bufMax w0 w1 := by
  rcases opcode_cases (fieldOpc w0) with opc | opc | opc | opc | opc | opc | opc | opc | beyond
  · simp [decodeDescriptor, IllegalWords, opc]
  · simp only [decodeDescriptor, IllegalWords, opc, ← Register.ofCode_eq_none_iff]
    cases Register.ofCode (fieldA w0) <;> simp
  · simp [decodeDescriptor, IllegalWords, opc]
  · simp [decodeDescriptor, IllegalWords, opc]
  · by_cases tooLong : bufMax < fieldLen w1 <;> simp [decodeDescriptor, IllegalWords, opc, tooLong]
  · simp [decodeDescriptor, IllegalWords, opc]
  · by_cases tooLong : bufMax < fieldLen w1 <;> simp [decodeDescriptor, IllegalWords, opc, tooLong]
  · by_cases tooLong : bufMax < fieldLen w1
    · simp [decodeDescriptor, IllegalWords, opc, tooLong]
    · by_cases rows : fieldLen w1 = 8
      · rw [rows] at tooLong
        simp [decodeDescriptor, IllegalWords, opc, tooLong, rows]
      · simp [decodeDescriptor, IllegalWords, opc, tooLong, rows]
  · have none_of : ∀ k : Byte, k.toNat < 8 → fieldOpc w0 ≠ k := fun k small same => by
      rw [same] at beyond
      omega
    simp [decodeDescriptor, IllegalWords, beyond, none_of]

end Sys2Proof

namespace Sys2Proof.Machine

theorem modeAfterEnd_of_ne_busy {m : Mode} (free : m ≠ .busy) : modeAfterEnd m = m := by
  cases m with
  | busy => exact absurd rfl free
  | idle => rfl
  | unconfigured => rfl

/-- `START` with a descriptor that does not decode ends with IllegalCommand (rules R85, R165). -/
theorem startCommand_of_illegal {s : State} (free : s.mode ≠ .busy) (illegal : ∃ e, fetchCommand s = .error e) :
    startCommand s = .next (endCommand .illegalCommand (beginAcceptance s)) := by
  obtain ⟨e, why⟩ := illegal
  rcases startCommand_cases s with ⟨busy, -⟩ | ⟨-, -, ended⟩ | ⟨-, i, t, decoded, -⟩
  · exact absurd busy free
  · exact ended
  · rw [why] at decoded
    cases decoded

/-- Settles O6: the decoder's own `iff`, and `START` then ends at once, so nothing is sent and the rest stays. -/
theorem illegalDescriptorsEndIllegalCommand : Obligations.IllegalDescriptorsEndIllegalCommand := by
  intro s rest turn free
  have rejected : (∃ e, fetchCommand s = .error e) ↔ IllegalWords s.params.bufMax s.w0 s.w1 :=
    decodeDescriptor_eq_error_iff ..
  refine ⟨rejected, fun illegal => ⟨_, (step_turn turn).trans (startCommand_of_illegal free (rejected.2 illegal)), ?_⟩⟩
  exact ⟨rfl, rfl, rfl, modeAfterEnd_of_ne_busy free, rfl, rfl, rfl, rfl, rfl, rfl, rfl⟩

end Sys2Proof.Machine
end

section
/-! Commands whose frames carry the same pairs are the same on the wire. Then the obligation on rule R89's expansions. -/

namespace Sys2Proof.Machine

/-- A command is the same on the wire as a sequence of commands of one frame each, where the pairs of its frame `f` are
those of the `f`-th command, slot by slot. -/
theorem wireEvents_eq_flatMap_of_framePair {p : Params} {n : Nat} {i : Instr} {count : Nat} {single : Nat → Instr}
    (same : ∀ f t, t < n → framePair (glyphRow p) n i f t = framePair (glyphRow p) n (single f) 0 t) :
    wireEvents p n i count = (List.range count).flatMap (fun f => wireEvents p n (single f) 1) := by
  have pairs : ∀ f, framePairs p n i f = framePairs p n (single f) 0 := fun f =>
    List.filterMap_congr fun t slot => same f t (List.mem_range.1 slot)
  simp [wireEvents, pairs]

/-- The case of one frame. -/
theorem wireEvents_one_congr {p : Params} {n : Nat} {i j : Instr}
    (same : ∀ f t, t < n → framePair (glyphRow p) n i f t = framePair (glyphRow p) n j 0 t) :
    wireEvents p n i 1 = wireEvents p n j 1 := by
  simpa using wireEvents_eq_flatMap_of_framePair (count := 1) (single := fun _ => j) same

/-- The pair WRITE_LINE has for a slot with a payload byte: the line's row code and that byte (rules R82, R114). -/
theorem writeLinePair_of_getElem? {line d : Byte} {payload : List Byte} {t : Nat} (byte : payload[t]? = some d) :
    writeLinePair line payload t = some (line + 1, d) := by
  simp [writeLinePair, byte, BitVec.ofNat_add]

/-- A BCAST_RAW is a WRITE_LINE whose payload is one byte for every chip. -/
theorem framePair_bcastRaw_eq_writeLine (g : Byte → Nat → Byte) (c d : Byte) {n t : Nat} (f : Nat) (slot : t < n) :
    framePair g n (.bcastRaw c d) f t = framePair g n (.writeLine (c - 1) (List.replicate n d)) 0 t := by
  have byte : (List.replicate n d)[t]? = some d := by simp [slot]
  simp [framePair, bcastRawPair, writeLinePair_of_getElem? byte]

/-- On a chain of one chip, slot 0 is chip 0's (rule R115). -/
theorem framePair_writeDevice_one (g : Byte → Nat → Byte) (c d : Byte) {t : Nat} (f : Nat) (slot : t < 1) :
    framePair g 1 (.writeDevice 0 c d) f t = framePair g 1 (.bcastRaw c d) 0 t := by
  obtain rfl : t = 0 := Nat.lt_one_iff.1 slot
  rfl

/-- Frame `f` of a RENDER_TEXT is the WRITE_LINE of line `f` with the composed row (rules R114, R136). -/
theorem framePair_renderText_eq_writeLine (g : Byte → Nat → Byte) (text : List Byte) (x : Int) {n t : Nat} (f : Nat)
    (slot : t < n) :
    framePair g n (.renderText text x) f t = framePair g n
      (.writeLine (BitVec.ofNat 8 f) ((List.range n).map (fun d => compose g n text x d f))) 0 t := by
  have byte : ((List.range n).map (fun d => compose g n text x d f))[t]? = some (compose g n text x t f) := by
    simp [slot]
  simp [framePair, renderPair, writeLinePair_of_getElem? byte, BitVec.ofNat_add]

/-- Settles O27: each row of rule R89 has the same pairs, frame by frame and slot by slot. -/
theorem commandsExpand : Obligations.CommandsExpand := by
  intro p n
  refine ⟨fun r d => ?_, fun c d _ _ => ?_, ?_, fun c d => ?_, fun text x => ?_⟩
  · exact wireEvents_one_congr fun _ _ _ => rfl
  · exact wireEvents_one_congr fun f _ => framePair_bcastRaw_eq_writeLine _ c d f
  · exact wireEvents_eq_flatMap_of_framePair fun _ _ _ => rfl
  · exact wireEvents_one_congr fun f _ => framePair_writeDevice_one _ c d f
  · exact wireEvents_eq_flatMap_of_framePair fun f _ => framePair_renderText_eq_writeLine _ text x f

end Sys2Proof.Machine
end

section
/-! Equations of the sequencer at its assert and byte steps, and of the block where its own request is answered (rules
R101 to R103). Then the two obligations on these steps. -/

namespace Sys2Proof.Machine

/-! ### The sequencer's own steps -/

/-- `byte(f, t, h)` is byte `h` of the running command's `pair(f, t)` (rule R100). -/
theorem frameByte_of_framePair {s : State} {i : Instr} {f t : Nat} {p : Byte × Byte} (h : Half)
    (running : s.inFlight = some i) (is : framePair (glyphRow s.params) s.n.toNat i f t = some p) :
    frameByte s f t h = some (pairByte p h) := by
  simp [frameByte, running, is]

section
variable {s : State} {f t : Nat} {h : Half} {rest : List Turn}

theorem step_assert (turn : s.schedule = .sequencer :: rest) (at_ : s.seq = .assert f) :
    step s = .next (assertStep f { s with schedule := rest }) := by
  rw [step_turn turn]
  simp only [takeTurn, sequencerStep, at_]

theorem step_assert_of_cancelPend (turn : s.schedule = .sequencer :: rest) (at_ : s.seq = .assert f)
    (pending : s.cancelPend = true) :
    step s = .next (endCommand .cancelled { s with schedule := rest, err := latchError s.err .cancelled }) :=
  (step_assert turn at_).trans (congrArg Host.Outcome.next (if_pos pending))

theorem step_assert_of_not_cancelPend (turn : s.schedule = .sequencer :: rest) (at_ : s.seq = .assert f)
    (go : s.cancelPend = false) :
    step s = .next (issue (.sel .assert) (.waitAssert f) { s with schedule := rest }) :=
  (step_assert turn at_).trans (congrArg Host.Outcome.next (if_neg (by simp [go])))

theorem step_byte (turn : s.schedule = .sequencer :: rest) (at_ : s.seq = .byte f t h) :
    step s = byteStep f t h { s with schedule := rest } := by
  rw [step_turn turn]
  simp only [takeTurn, sequencerStep, at_]

theorem step_byte_of_cancelPend (turn : s.schedule = .sequencer :: rest) (at_ : s.seq = .byte f t h)
    (pending : s.cancelPend = true) : step s = .next (failFrame .cancelled f { s with schedule := rest }) :=
  (step_byte turn at_).trans (if_pos pending)

theorem step_byte_of_frameByte {b : Byte} (turn : s.schedule = .sequencer :: rest) (at_ : s.seq = .byte f t h)
    (go : s.cancelPend = false) (is : frameByte { s with schedule := rest } f t h = some b) :
    step s = .next (issue (.tx b) (.waitByte f t h) { s with schedule := rest }) := by
  rw [step_byte turn at_, byteStep, if_neg (by simp [go]), is]

end

/-- The first error of a command is latched as it is (rule R28). -/
theorem latchError_of_no_error {old : Option Completion} (c : Completion) (noError : old = none) :
    latchError old c = some c := by
  rw [noError]
  rfl

theorem failFrame_of_no_error {s : State} (c : Completion) (f : Nat) (noError : s.err = none) :
    failFrame c f s = { s with err := some c, seq := .release f } := by
  rw [failFrame, latchError_of_no_error c noError]

/-! ### The answer to the block's own request -/

theorem environmentAnswer_seq {r : Request} {a : Answer} {s u : State} (outside : environmentAnswer r a s = .next u) :
    u.seq = s.seq := by
  obtain ⟨v, answered, only, -⟩ := environmentAnswer_next r a s
  cases outside.symm.trans answered
  rw [only]

section
variable {s u : State} {a : Answer} {f : Nat} {rest : List Turn}

/-- An answer turn of a collaborator that owes no abandoned answer: the block takes the answer in the state `u` the
environment leaves. -/
theorem step_ownAnswer {c : Collaborator} {r : Request} (turn : s.schedule = .answer c a :: rest)
    (unowed : ∀ q ∈ s.abandoned, requestedOf q ≠ c) (own : s.outstanding = some r) (its : requestedOf r = c)
    (outside : environmentAnswer r a (takeAnswer a { s with schedule := rest }) = .next u) :
    step s = blockAnswer a u := by
  rw [step_turn turn, takeTurn, answerStep_own (s := { s with schedule := rest }) a unowed own its, outside, andThen_next]

theorem step_assertAnswered (turn : s.schedule = .answer .seldrv a :: rest) (at_ : s.seq = .waitAssert f)
    (unowed : ∀ q ∈ s.abandoned, requestedOf q ≠ .seldrv) (own : s.outstanding = some (.sel .assert))
    (outside : environmentAnswer (.sel .assert) a (takeAnswer a { s with schedule := rest }) = .next u) :
    step s = .next (assertAnswered f a u) := by
  have waiting : u.seq = .waitAssert f := (environmentAnswer_seq outside).trans at_
  simp only [step_ownAnswer turn unowed own rfl outside, blockAnswer, waiting]

theorem step_byteAnswered {t : Nat} {h : Half} {b : Byte} (turn : s.schedule = .answer .xfer a :: rest)
    (at_ : s.seq = .waitByte f t h) (unowed : ∀ q ∈ s.abandoned, requestedOf q ≠ .xfer)
    (own : s.outstanding = some (.tx b))
    (outside : environmentAnswer (.tx b) a (takeAnswer a { s with schedule := rest }) = .next u) :
    step s = .next (byteAnswered f t h a u) := by
  have waiting : u.seq = .waitByte f t h := (environmentAnswer_seq outside).trans at_
  simp only [step_ownAnswer turn unowed own rfl outside, blockAnswer, waiting]

end

/-- An answered byte changes the chain alone (rule R56). -/
theorem environmentAnswer_tx (b : Byte) (a : Answer) (s : State) :
    ∃ chain, environmentAnswer (.tx b) a s = .next { s with chain := chain } := by
  by_cases opened : s.chain.frameOpen = true
  · cases a with
    | ok => exact ⟨_, congrArg Host.Outcome.next (if_pos opened)⟩
    | err e => exact ⟨_, congrArg Host.Outcome.next (if_pos opened)⟩
  · cases a with
    | ok => exact ⟨_, congrArg Host.Outcome.next (if_neg opened)⟩
    | err e => exact ⟨_, congrArg Host.Outcome.next (if_neg opened)⟩

/-- After a register byte comes the pair's data byte, after a data byte the next slot, after the last the release. -/
theorem afterByte_cases (n f t : Nat) (h : Half) :
    (h = .register ∧ afterByte n f t h = .byte f t .data) ∨
    (h = .data ∧ t + 1 < n ∧ afterByte n f t h = .byte f (t + 1) .register) ∨
    (h = .data ∧ n ≤ t + 1 ∧ afterByte n f t h = .release f) := by
  cases h with
  | register => exact .inl ⟨rfl, rfl⟩
  | data =>
    by_cases more : t + 1 < n
    · exact .inr (.inl ⟨rfl, more, if_pos more⟩)
    · exact .inr (.inr ⟨rfl, Nat.le_of_not_lt more, if_neg more⟩)

/-! ### The obligations -/

/-- Settles O23: the assert step and the block's taking of the answer, clause by clause (rule R101).
(The name `assertStep` is the model's own step.) -/
theorem theAssertStep : Obligations.AssertStep := by
  intro s f rest noError
  refine ⟨fun turn at_ busy pending => ?_, fun turn at_ go => ?_, fun turn at_ unowed own => ?_,
    fun e turn at_ unowed own => ?_⟩
  · rw [step_assert_of_cancelPend turn at_ pending, latchError_of_no_error .cancelled noError, endCommand, busy]
    rfl
  · rw [step_assert_of_not_cancelPend turn at_ go]
    rfl
  · rw [step_assertAnswered turn at_ unowed own rfl]
    rfl
  · rw [step_assertAnswered turn at_ unowed own rfl, assertAnswered, failFrame_of_no_error]
    · rfl
    · exact noError

/-- Settles O24: the byte step, then the block's taking of the answer by what it is (rules R102, R103). -/
theorem byteSteps : Obligations.ByteSteps := by
  intro s f t h rest noError
  refine ⟨fun turn at_ pending => ?_, fun i reg data turn at_ go running pair => ?_, fun a b turn at_ unowed own => ?_⟩
  · rw [step_byte_of_cancelPend turn at_ pending, failFrame_of_no_error]
    exact noError
  · rw [step_byte_of_frameByte turn at_ go (frameByte_of_framePair h running pair)]
    cases h <;> rfl
  · obtain ⟨chain, outside⟩ := environmentAnswer_tx b a (takeAnswer a { s with schedule := rest })
    refine ⟨_, step_byteAnswered turn at_ unowed own outside, ?_⟩
    cases a with
    | ok => exact ⟨rfl, noError, afterByte_cases s.n.toNat f t h⟩
    | err e => exact ⟨rfl, latchError_of_no_error (.transportError e) noError, rfl⟩

end Sys2Proof.Machine
end

section
/-! The compositor: the split of `x_pos`, the two operands of a blend, and the bits of the blended byte as text pixels.
Then the obligations on rules R131, R135 and R139. -/

namespace Sys2Proof.Machine

/-! ### The RenderWindow (rule R131) -/

theorem charBase_charShift (x : Int) : x = 8 * charBase x + charShift x := (Int.mul_tdiv_add_tmod x 8).symm

theorem charShift_lt (x : Int) : charShift x < 8 := Int.tmod_lt_of_pos x (by decide)

theorem charShift_neg (x : Int) : charShift (-x) = -charShift x := Int.neg_tmod x 8

theorem neg_lt_charShift (x : Int) : -8 < charShift x := by
  have mirrored := charShift_lt (-x)
  rw [charShift_neg] at mirrored
  omega

theorem charShift_nonneg {x : Int} (h : 0 ≤ x) : 0 ≤ charShift x := Int.tmod_nonneg 8 h

theorem charShift_nonpos {x : Int} (h : x ≤ 0) : charShift x ≤ 0 := by
  have mirrored := charShift_nonneg (x := -x) (by omega)
  rw [charShift_neg] at mirrored
  omega

/-- Settles O28: division toward zero leaves a remainder with the sign of `x_pos`; the examples are evaluated. -/
theorem renderWindowSplits : Obligations.RenderWindowSplits := by
  refine ⟨fun x => ⟨charBase_charShift x, ?_, ?_, fun right => ?_, fun left => ?_⟩, by decide⟩
  · exact neg_lt_charShift x
  · exact Int.le_of_lt_add_one (charShift_lt x)
  · exact Int.not_le.1 fun h => absurd (charShift_nonpos h) (Int.not_le.2 right)
  · exact Int.not_le.1 fun h => absurd (charShift_nonneg h) (Int.not_le.2 left)

/-! ### The operations of rule R7 -/

@[simp] theorem toNat_shr8 (b : Byte) (k : Nat) : (shr8 b k).toNat = b.toNat / 2 ^ k := by
  simp [shr8, Nat.shiftRight_eq_div_pow]

@[simp] theorem toNat_shl8 (b : Byte) (k : Nat) : (shl8 b k).toNat = b.toNat * 2 ^ k % 256 := by
  simp [shl8, Nat.shiftLeft_eq]

theorem or8_comm (a b : Byte) : or8 a b = or8 b a := BitVec.or_comm a b

/-- Bytes with no bit in common are joined alike by or, exclusive or and addition. -/
theorem toNat_or8_of_disjoint {a b : Byte} (disjoint : a &&& b = 0) :
    (or8 a b).toNat = a.toNat ||| b.toNat ∧ (or8 a b).toNat = a.toNat ^^^ b.toNat ∧
      (or8 a b).toNat = a.toNat + b.toNat := by
  have xor : or8 a b = a ^^^ b := by
    ext i hi
    have apart : (a[i] && b[i]) = false := by
      rw [← BitVec.getElem_and, disjoint]
      simp
    cases ha : a[i] <;> simp_all [or8]
  have sum : or8 a b = a + b := (BitVec.add_eq_or_of_and_eq_zero a b disjoint).symm
  refine ⟨BitVec.toNat_or .., ?_, ?_⟩
  · rw [xor, BitVec.toNat_xor]
  · rw [sum, BitVec.toNat_add_of_and_eq_zero disjoint]

/-- `shr8(a, k)` lies in bits 7-k..0 and `shl8(b, 8-k)` in bits 7..8-k (rule R135). -/
theorem shr8_and_shl8_eq_zero (a b : Byte) (k : Nat) : shr8 a k &&& shl8 b (8 - k) = 0 := by
  ext i hi
  simp only [shr8, shl8, BitVec.getElem_and, BitVec.getElem_ushiftRight, BitVec.getElem_shiftLeft]
  by_cases low : i < 8 - k
  · simp [low]
  · simp [BitVec.getLsbD_of_ge a (k + i) (by omega)]

theorem shl8_and_shr8_eq_zero (a b : Byte) {k : Nat} (hk : k ≤ 8) : shl8 a k &&& shr8 b (8 - k) = 0 := by
  have swapped := shr8_and_shl8_eq_zero b a (8 - k)
  rwa [Nat.sub_sub_self hk, BitVec.and_comm] at swapped

/-- The byte that starts `k` columns into the sixteen columns of `a` and then `b`. -/
theorem getLsbD_or8_shr8_shl8 (a b : Byte) {k j : Nat} (hk : k ≤ 8) (hj : j < 8) :
    (or8 (shr8 a k) (shl8 b (8 - k))).getLsbD j =
      if j + k < 8 then a.getLsbD (j + k) else b.getLsbD (j + k - 8) := by
  simp only [or8, shr8, shl8, BitVec.getLsbD_or, BitVec.getLsbD_ushiftRight, BitVec.getLsbD_shiftLeft]
  by_cases low : j + k < 8
  · have below : j < 8 - k := by omega
    simp [below, low, Nat.add_comm k j]
  · have above : ¬ j < 8 - k := by omega
    have offset : j - (8 - k) = j + k - 8 := by omega
    simp [low, above, hj, offset, BitVec.getLsbD_of_ge a (k + j) (by omega)]

/-! ### The composed byte (rule R135) -/

theorem blend_zero (left middle right : Byte) : blend 0 left middle right = middle := rfl

section
variable {k : Nat} (left middle right : Byte)

theorem blend_neg (hk : 1 ≤ k) :
    blend (-(k : Int)) left middle right = or8 (shr8 middle k) (shl8 right (8 - k)) := by
  rw [blend, if_neg (by omega), if_pos (by omega), Int.natAbs_neg, Int.natAbs_natCast]

theorem blend_pos (hk : 1 ≤ k) :
    blend k left middle right = or8 (shl8 middle k) (shr8 left (8 - k)) := by
  rw [blend, if_neg (by omega), if_neg (by omega), Int.natAbs_natCast]

end

/-- Settles O30: the branches of the blend, whose operands have no bit in common. -/
theorem composeBlendsNeighbours : Obligations.ComposeBlendsNeighbours := by
  intro g n text x d r k
  refine ⟨fun aligned => ?_, fun shift hk => ?_, fun shift hk => ?_⟩
  · rw [compose, aligned, blend_zero]
    rfl
  · have small : k ≤ 7 := by
      have := neg_lt_charShift x
      omega
    refine ⟨small, ?_⟩
    rw [compose, shift, blend_neg _ _ _ hk, ← toNat_shr8, ← toNat_shl8]
    exact toNat_or8_of_disjoint (shr8_and_shl8_eq_zero _ _ k)
  · have small : k ≤ 7 := by
      have := charShift_lt x
      omega
    refine ⟨small, ?_⟩
    rw [compose, shift, blend_pos _ _ _ hk, ← toNat_shr8, ← toNat_shl8]
    exact toNat_or8_of_disjoint (shl8_and_shr8_eq_zero _ _ (by omega))

/-! ### The closed form (rule R139) -/

section
variable (g : Byte → Nat → Byte) (text : List Byte) (r : Nat)

/-- The row of rule R133 by its bounds check alone. -/
theorem textRow_eq_ite (i : Int) :
    textRow g text r i = if 0 ≤ i ∧ i < text.length then g (text.getD i.toNat 0) r else g 0 r := by
  by_cases nonneg : 0 ≤ i
  · by_cases inside : i.toNat < text.length
    · have bound : i < text.length := by omega
      simp [textRow, nonneg, inside, bound]
    · have bound : ¬ i < text.length := by omega
      simp [textRow, nonneg, inside, bound]
  · simp [textRow, nonneg]

/-- Text column `8·i + j` is bit `j` of row `i`. -/
theorem textPixel_of_column {v i : Int} {j : Nat} (column : v = 8 * i + j) (hj : j < 8) :
    textPixel g text v r = (textRow g text r i).getLsbD j := by
  have cell : v.fdiv 8 = i := by
    rw [Int.fdiv_eq_ediv_of_nonneg v (by decide)]
    omega
  have bit : (v.fmod 8).toNat = j := by
    rw [Int.fmod_eq_emod_of_nonneg v (by decide)]
    omega
  rw [textPixel, cell, bit]

/-- Bit `j` starting `k` columns into two neighbouring cells. -/
theorem getLsbD_neighbours (i : Int) {k j : Nat} (hk : k ≤ 8) (hj : j < 8) :
    (or8 (shr8 (textRow g text r i) k) (shl8 (textRow g text r (i + 1)) (8 - k))).getLsbD j =
      textPixel g text (8 * i + k + j) r := by
  rw [getLsbD_or8_shr8_shl8 _ _ hk hj]
  by_cases low : j + k < 8
  · rw [if_pos low, textPixel_of_column g text r (i := i) (by omega) low]
  · rw [if_neg low, textPixel_of_column g text r (i := i + 1) (j := j + k - 8) (by omega) (by omega)]

/-- Blending around cell `idx` moves the text by `shift` columns. -/
theorem getLsbD_blend {shift : Int} (idx : Int) {j : Nat} (lower : -8 < shift) (upper : shift < 8) (hj : j < 8) :
    (blend shift (textRow g text r (idx - 1)) (textRow g text r idx) (textRow g text r (idx + 1))).getLsbD j =
      textPixel g text (8 * idx + j - shift) r := by
  obtain ⟨k, right | left⟩ := Int.eq_nat_or_neg shift
  · subst right
    rcases Nat.eq_zero_or_pos k with rfl | hk
    · rw [Int.natCast_zero, blend_zero, textPixel_of_column g text r (i := idx) (by omega) hj]
    · have cells := getLsbD_neighbours g text r (idx - 1) (k := 8 - k) (by omega) hj
      rw [Nat.sub_sub_self (by omega), Int.sub_add_cancel, or8_comm] at cells
      rw [blend_pos _ _ _ hk, cells]
      congr 1
      omega
  · subst left
    rcases Nat.eq_zero_or_pos k with rfl | hk
    · rw [Int.natCast_zero, Int.neg_zero, blend_zero, textPixel_of_column g text r (i := idx) (by omega) hj]
    · rw [blend_neg _ _ _ hk, getLsbD_neighbours g text r idx (by omega) hj]
      congr 1
      omega

end

/-- Settles O31: the blend moves the text by `shift` columns and the character index by `8·char_base`, together
`x_pos`. -/
theorem composeClosedForm : Obligations.ComposeClosedForm := by
  intro g n text x d r j _ _ _ hj v row
  have rows : row = textRow g text r := funext fun i => (textRow_eq_ite g text r i).symm
  have column : 8 * charIndex n d x + j - charShift x = v := by
    have split := charBase_charShift x
    simp only [charIndex, v]
    omega
  rw [compose, getLsbD_blend g text r _ (neg_lt_charShift x) (charShift_lt x) hj, column, rows, textPixel]

end Sys2Proof.Machine
end

section
/-! The quarter turn, pixel by pixel: a matrix is its pixels, and one turn, two turns and four turns name each pixel's
source. Then the obligation on the laws of rule R152. -/

namespace Sys2Proof.Machine

/-! ### The pixels of a matrix (rule R150) -/

/-- A matrix is its eight rows. -/
theorem matrix8_eq_of_matrixRow {m m' : Matrix8} (rows : ∀ i, matrixRow m i = matrixRow m' i) : m = m' := by
  cases m
  cases m'
  exact (Matrix8.mk.injEq ..).mpr ⟨rows 0, rows 1, rows 2, rows 3, rows 4, rows 5, rows 6, rows 7⟩

/-- A matrix is its sixty-four pixels. -/
theorem matrix8_eq_of_matrixBit {m m' : Matrix8} (pixels : ∀ i j, matrixBit m i j = matrixBit m' i j) : m = m' :=
  matrix8_eq_of_matrixRow fun i => BitVec.eq_of_getLsbD_eq fun j hj => pixels i ⟨j, hj⟩

/-- The mirrored index as the rules write it, `7 - i`. -/
theorem seven_sub_eq_rev (i : Fin 8) (h : 7 - i.val < 8) : ⟨7 - i.val, h⟩ = i.rev := by
  apply Fin.ext
  simp only [Fin.val_rev]
  omega

/-! ### Turns (rules R151, R152) -/

section
variable (m : Matrix8) (a b : Fin 8)

@[simp] theorem matrixRow_rot : matrixRow (rot m) a = rotRow m a := by
  fin_cases a <;> rfl

/-- Pixel `(a, b)` of `rot(m)` is pixel `(b, 7 - a)` of `m` (rule R151). -/
theorem matrixBit_rot : matrixBit (rot m) a b = matrixBit m b a.rev := by
  rw [matrixBit, matrixRow_rot, rotRow, BitVec.getLsbD_ofFnLE, dif_pos b.isLt]

/-- Two turns mirror both indices. -/
theorem matrixBit_rot_rot : matrixBit (rot (rot m)) a b = matrixBit m a.rev b.rev := by
  rw [matrixBit_rot, matrixBit_rot]

theorem rot_rot_rot_rot : rot (rot (rot (rot m))) = m :=
  matrix8_eq_of_matrixBit fun i j => by
    rw [matrixBit_rot_rot, matrixBit_rot_rot, Fin.rev_rev, Fin.rev_rev]

end

/-- Settles O33: each law names the source of one pixel after one, two or four turns; the examples are evaluated. -/
theorem rotationLaws : Obligations.RotationLaws := by
  refine ⟨rot_rot_rot_rot, fun m i j => ?_, fun m i j => ?_, by decide, by decide⟩
  · rw [seven_sub_eq_rev, seven_sub_eq_rev, matrixBit_rot_rot, Fin.rev_rev]
  · rw [seven_sub_eq_rev, matrixBit_rot, Fin.rev_rev]

end Sys2Proof.Machine
end

section
/-! The `RESET` turn: the step is `resetBlock`, whose fields are read off. Then the obligation on rules R33, R190 and
R192. -/

namespace Sys2Proof.Machine

/-- A `RESET` turn resets the block whatever its mode, so while BUSY too (rules R15, R190). -/
theorem step_reset {s : State} {rest : List Turn} (turn : s.schedule = .host .reset :: rest) :
    step s = .next (resetBlock { s with schedule := rest }) :=
  step_turn turn

/-- Settles O12: `resetBlock` writes each field of the block, and no field of the line, the chips' contents, the trace or
the parameters. -/
theorem resetSetsBlockState : Obligations.ResetSetsBlockState := by
  intro s rest turn
  refine ⟨resetBlock { s with schedule := rest }, step_reset turn, ?_⟩
  have unwritten (a : Nat) : (resetBlock { s with schedule := rest }).buf.read a = none := by
    rw [resetBlock_buf, Memory.read_nil]
  simp only [unwritten, resetBlock_mode, resetBlock_status, resetBlock_selState, resetBlock_cancelPend, resetBlock_seq,
    resetBlock_err, resetBlock_outstanding, resetBlock_trace, resetBlock_line, resetBlock_chain, resetBlock_params,
    implies_true, and_self]

end Sys2Proof.Machine
end

section
/-! Which agent a step is of: one case for each, whether the schedule named its turn or left it free (rule R13). -/

namespace Sys2Proof.Machine

/-- The state an agent acts on: the turn is off the schedule, or a free value is drawn; nothing else differs. -/
abbrev TurnTaken (s s' : State) : Prop := s' = { s with schedule := s'.schedule, draws := s'.draws }

/-- What the agent whose turn it is did, in the state `s'` it acted on. -/
inductive Acted (s s' t : State) : Prop where
  | host (act : HostAction) (rest : List Turn) (turn : s.schedule = .host act :: rest) (did : HostDid act s' t)
  | sequencer (turn : s.schedule = [] ∨ ∃ rest, s.schedule = .sequencer :: rest) (did : SequencerMoved s' t)
  | answer (c : Collaborator) (a : Answer) (turn : s.schedule = [] ∨ ∃ rest, s.schedule = .answer c a :: rest)
      (did : Answered c a s' t)

theorem acted_of_step {s t : State} (h : step s = .next t) : ∃ s', TurnTaken s s' ∧ Acted s s' t := by
  cases step_cases h with
  | host act rest _ turn did => exact ⟨_, rfl, .host act rest turn did⟩
  | sequencer rest _ turn did => exact ⟨_, rfl, .sequencer (.inr ⟨rest, turn⟩) did⟩
  | answer c a rest _ turn did => exact ⟨_, rfl, .answer c a (.inr ⟨rest, turn⟩) did⟩
  | freeSequencer _ turn enabled did => exact ⟨s, rfl, .sequencer (.inl turn) did⟩
  | freeAnswer c _ turn waiting owes did => exact ⟨_, rfl, .answer c _ (.inl turn) did⟩
  | silent turn waiting notOwed => exact ⟨s, rfl, .sequencer (.inl turn) (.rests waiting)⟩

end Sys2Proof.Machine
end

section
/-! What an answered request leaves as it is, as rewriting rules. -/

namespace Sys2Proof.Machine

theorem environmentAnswer_onlyOutside {r : Request} {a : Answer} {s t : State}
    (h : environmentAnswer r a s = .next t) : onlyOutside s t := by
  obtain ⟨u, hu, only, -⟩ := environmentAnswer_next r a s
  cases h.symm.trans hu
  exact only

theorem lateAnswer_onlyOutside {r : Request} {a : Answer} {s t : State}
    (h : lateAnswer r a s = .next t) : onlyOutside s t := by
  obtain ⟨u, hu, only, -⟩ := lateAnswer_next r a s
  cases h.symm.trans hu
  exact only

end Sys2Proof.Machine
end

section
/-! The invariant in three parts: what is stored, where the sequencer stands, and what is known of the chips. Each part has
its own rule for each thing an agent can do. Then the obligations that the invariant holds after reset and that every step
keeps it. -/

namespace Sys2Proof.Machine

/-! ### The parts -/

/-- The invariant's part on the parameters, `BUF` and `N`. -/
structure StoredInv (s : State) : Prop where
  params_valid : ParamsValid s.params
  buf_wf : s.buf.wf
  buf_in_range : ∀ c ∈ s.buf, c.1 < s.params.bufMax
  length_in_range : s.mode ≠ .unconfigured → 1 ≤ s.n.toNat ∧ s.n.toNat ≤ s.params.nMax

/-- The invariant's part on the running command and the sequencer. -/
structure ControlInv (s : State) : Prop where
  busy_iff : s.mode = .busy ↔ s.seq ≠ .idle
  in_flight_iff : s.inFlight ≠ none ↔ s.mode = .busy
  in_flight_fits : ∀ i, s.inFlight = some i → commandFits s.n i
  position : positionInRange s
  outstanding_matches : outstandingMatches s
  no_error_in_frame : noErrorInFrame s
  cancel_only_busy : s.cancelPend = true → s.mode = .busy

/-- The invariant's part on the chips. -/
structure ChainInv (s : State) : Prop where
  creg_wf : s.chain.creg.wf
  sr_bounded : s.chain.sr.length ≤ 2 * chainLength s
  frame_known : s.chain.frameOpen = true → s.chain.bad = false → min s.chain.cnt (2 * chainLength s) ≤ s.chain.sr.length
  chain_unknown : s.mode = .unconfigured → s.chain.chips = none →
    s.chain.sr = [] ∧ s.chain.frameOpen = false ∧ s.abandoned = []
  stale_owed : s.chain.stale ≤ owedBytes s.abandoned
  stale_first : s.chain.stale ≠ 0 → s.chain.cnt = 0

theorem inv_iff (s : State) : s.Inv ↔ StoredInv s ∧ ControlInv s ∧ ChainInv s := by
  constructor
  · intro h
    exact ⟨⟨h.params_valid, h.buf_wf, h.buf_in_range, h.length_in_range⟩,
      ⟨h.busy_iff, h.in_flight_iff, h.in_flight_fits, h.position, h.outstanding_matches, h.no_error_in_frame,
        h.cancel_only_busy⟩,
      ⟨h.creg_wf, h.sr_bounded, h.frame_known, h.chain_unknown, h.stale_owed, h.stale_first⟩⟩
  · rintro ⟨st, co, ch⟩
    exact { st, co, ch with }

theorem State.Inv.turnTaken {s s' : State} (h : s.Inv) (taken : TurnTaken s s') : s'.Inv := by
  rw [taken]
  exact ⟨h.params_valid, h.buf_wf, h.buf_in_range, h.creg_wf, h.busy_iff, h.length_in_range, h.in_flight_iff,
    h.in_flight_fits, h.position, h.outstanding_matches, h.no_error_in_frame, h.cancel_only_busy, h.sr_bounded,
    h.frame_known, h.chain_unknown, h.stale_owed, h.stale_first⟩

/-! ### What is stored -/

theorem StoredInv.keep {s t : State} (h : StoredInv s) (same : SameRegisters s t)
    (configured : t.mode = .unconfigured ↔ s.mode = .unconfigured) : StoredInv t := by
  refine ⟨?_, ?_, ?_, fun m => ?_⟩
  · rw [same.params]; exact h.params_valid
  · rw [same.buf]; exact h.buf_wf
  · rw [same.buf, same.params]; exact h.buf_in_range
  · rw [same.n, same.params]; exact h.length_in_range (mt configured.2 m)

/-! ### Where the sequencer stands -/

/-- The control part of a block at rest. -/
theorem ControlInv.of_idle {s : State} (rests : s.seq = .idle) (free : s.mode ≠ .busy) (no_command : s.inFlight = none)
    (no_request : s.outstanding = none) (no_cancel : s.cancelPend = false) : ControlInv s where
  busy_iff := by simp [rests, free]
  in_flight_iff := by simp [no_command, free]
  in_flight_fits := by simp [no_command]
  position := by simp [positionInRange, rests]
  outstanding_matches := by simp [outstandingMatches, rests, no_request]
  no_error_in_frame := by simp [noErrorInFrame, rests]
  cancel_only_busy := by simp [no_cancel]

/-- What the control part says of a block that runs a command, but for the outstanding request. -/
structure RunningInv (s : State) : Prop where
  runs : s.seq ≠ .idle
  busy : s.mode = .busy
  command : ∃ i, s.inFlight = some i ∧ commandFits s.n i
  position : positionInRange s
  no_error_in_frame : noErrorInFrame s

theorem RunningInv.control {s : State} (h : RunningInv s) (requested : outstandingMatches s) : ControlInv s where
  busy_iff := by simp [h.runs, h.busy]
  in_flight_iff := by
    obtain ⟨i, hi, -⟩ := h.command
    simp [hi, h.busy]
  in_flight_fits := by
    obtain ⟨i, hi, fits⟩ := h.command
    intro j hj
    cases hi.symm.trans hj
    exact fits
  position := h.position
  outstanding_matches := requested
  no_error_in_frame := h.no_error_in_frame
  cancel_only_busy := fun _ => h.busy

theorem ControlInv.running {s : State} (h : ControlInv s) (runs : s.seq ≠ .idle) : RunningInv s where
  runs := runs
  busy := h.busy_iff.2 runs
  command := by
    obtain ⟨i, hi⟩ := Option.ne_none_iff_exists'.1 (h.in_flight_iff.2 (h.busy_iff.2 runs))
    exact ⟨i, hi, h.in_flight_fits i hi⟩
  position := h.position
  no_error_in_frame := h.no_error_in_frame

theorem ControlInv.seq_of_not_busy {s : State} (h : ControlInv s) (free : s.mode ≠ .busy) : s.seq = .idle :=
  Classical.not_not.1 fun runs => free (h.busy_iff.2 runs)

theorem ControlInv.outstanding_of_idle {s : State} (h : ControlInv s) (rests : s.seq = .idle) : s.outstanding = none := by
  have requested := h.outstanding_matches
  rwa [outstandingMatches, rests] at requested

theorem modeAfterEnd_ne_busy (m : Mode) : modeAfterEnd m ≠ .busy := by
  cases m <;> decide

theorem modeAfterEnd_eq_unconfigured {m : Mode} : modeAfterEnd m = .unconfigured ↔ m = .unconfigured := by
  cases m <;> decide

/-- The end of a command puts the block at rest (rule R166). -/
theorem controlInv_endCommand (c : Completion) {s : State} (no_request : s.outstanding = none) :
    ControlInv (endCommand c s) :=
  .of_idle rfl (modeAfterEnd_ne_busy s.mode) rfl no_request rfl

/-- A command that sends frames sends at least one (rule R105). -/
theorem frameCount_pos {i : Instr} {count : Nat} (h : frameCount i = some count) : 0 < count := by
  cases i <;> cases h <;> decide

/-- A command that begins stands before its first frame. -/
theorem RunningInv.beginFrames {s : State} {i : Instr} (fits : commandFits s.n i) (no_error : s.err = none) :
    RunningInv (beginFrames i s) where
  runs := by simp
  busy := rfl
  command := ⟨i, rfl, fits⟩
  position := by
    obtain ⟨count, hc⟩ := Option.ne_none_iff_exists'.1 fits.1
    simpa [positionInRange, framesInFlight, hc] using frameCount_pos hc
  no_error_in_frame := no_error

/-- The running command goes on where only `SEQ`, the request, the latch and what lies outside the block changed. -/
theorem RunningInv.goesOn {s t : State} (h : RunningInv s) (mode : t.mode = s.mode) (inFlight : t.inFlight = s.inFlight)
    (n : t.n = s.n) (runs : t.seq ≠ .idle) (position : positionInRange t) (no_error : noErrorInFrame t)
    (requested : outstandingMatches t) : ControlInv t :=
  RunningInv.control ⟨runs, mode.trans h.busy, by rw [inFlight, n]; exact h.command, position, no_error⟩ requested

theorem ControlInv.sequencerMoved {s t : State} (h : ControlInv s) (did : SequencerMoved s t) : ControlInv t := by
  have requested := h.outstanding_matches
  have position := h.position
  have no_error := h.no_error_in_frame
  cases did with
  | rests idle => exact h
  | cancelled f at_ pending =>
    rw [outstandingMatches, at_] at requested
    exact controlInv_endCommand .cancelled requested
  | asserts f at_ go =>
    rw [positionInRange, at_] at position
    rw [noErrorInFrame, at_] at no_error
    exact (h.running (by simp [at_])).goesOn rfl rfl rfl (by simp) position no_error rfl
  | cutShort f t h' at_ pending =>
    rw [positionInRange, at_] at position
    rw [outstandingMatches, at_] at requested
    exact (h.running (by simp [at_])).goesOn rfl rfl rfl (by simp) position.1 trivial requested
  | sends f t h' b at_ go is =>
    rw [positionInRange, at_] at position
    rw [noErrorInFrame, at_] at no_error
    exact (h.running (by simp [at_])).goesOn rfl rfl rfl (by simp) position no_error ⟨b, is, rfl⟩
  | releases f at_ =>
    rw [positionInRange, at_] at position
    exact (h.running (by simp [at_])).goesOn rfl rfl rfl (by simp) position trivial rfl

/-- The sequencer waits for no answer. -/
abbrev NotWaiting (s : State) : Prop :=
  (∀ f, s.seq ≠ .waitAssert f) ∧ (∀ f t h, s.seq ≠ .waitByte f t h) ∧ ∀ f, s.seq ≠ .waitRelease f

theorem notWaiting_congr {s t : State} (seq : t.seq = s.seq) : NotWaiting t ↔ NotWaiting s := by
  simp only [NotWaiting, seq]

/-- The block takes the answer to its request: no request is outstanding, and it goes on or ends. -/
theorem RunningInv.blockTook {a : Answer} {s t : State} (h : RunningInv s) (taken : s.outstanding = none)
    (length : 1 ≤ s.n.toNat) (waits : ¬ NotWaiting s) (did : BlockTook a s t) : ControlInv t := by
  have position := h.position
  have no_error := h.no_error_in_frame
  cases did with
  | nothing notWaiting => exact absurd notWaiting waits
  | asserted f at_ is =>
    rw [positionInRange, at_] at position
    rw [noErrorInFrame, at_] at no_error
    exact h.goesOn rfl rfl rfl (by simp) ⟨position, length⟩ no_error taken
  | assertFailed f e at_ is =>
    rw [positionInRange, at_] at position
    exact h.goesOn rfl rfl rfl (by simp) position trivial taken
  | sent f t h' at_ is =>
    rw [positionInRange, at_] at position
    rw [noErrorInFrame, at_] at no_error
    rcases afterByte_cases s.n.toNat f t h' with ⟨-, next⟩ | ⟨-, more, next⟩ | ⟨-, -, next⟩
    · rw [next]
      exact h.goesOn rfl rfl rfl (by simp) position no_error taken
    · rw [next]
      exact h.goesOn rfl rfl rfl (by simp) ⟨position.1, more⟩ no_error taken
    · rw [next]
      exact h.goesOn rfl rfl rfl (by simp) position.1 trivial taken
  | sendFailed f t h' e at_ is =>
    rw [positionInRange, at_] at position
    exact h.goesOn rfl rfl rfl (by simp) position.1 trivial taken
  | ended f c at_ first => exact controlInv_endCommand c taken
  | nextFrame f count at_ first frames more =>
    refine h.goesOn rfl rfl rfl (by simp) ?_ rfl taken
    change f + 1 < (framesInFlight s).getD 0
    rw [frames]
    exact more
  | endedOk f count at_ first frames last => exact controlInv_endCommand .ok taken

/-- Where a request is outstanding the sequencer waits for its answer. -/
theorem ControlInv.seq_of_outstanding {s : State} {r : Request} (h : ControlInv s) (own : s.outstanding = some r) :
    (∃ f, s.seq = .waitAssert f ∧ r = .sel .assert) ∨ (∃ f t h b, s.seq = .waitByte f t h ∧ r = .tx b) ∨
      (∃ f, s.seq = .waitRelease f ∧ r = .sel .deassert) := by
  have requested := h.outstanding_matches
  rw [outstandingMatches, own] at requested
  split at requested
  case h_1 f at_ => exact .inl ⟨f, at_, Option.some.inj requested⟩
  case h_2 f t h at_ =>
    obtain ⟨b, -, is⟩ := requested
    exact .inr (.inl ⟨f, t, h, b, at_, Option.some.inj is⟩)
  case h_3 f at_ => exact .inr (.inr ⟨f, at_, Option.some.inj requested⟩)
  all_goals cases requested

theorem ControlInv.waits {s : State} {r : Request} (h : ControlInv s) (own : s.outstanding = some r) : ¬ NotWaiting s := by
  rintro ⟨no_assert, no_byte, no_release⟩
  rcases h.seq_of_outstanding own with ⟨f, at_, -⟩ | ⟨f, t, h, b, at_, -⟩ | ⟨f, at_, -⟩
  · exact no_assert f at_
  · exact no_byte f t h at_
  · exact no_release f at_

/-- A block that waits for an answer runs a command. -/
theorem ControlInv.running_of_outstanding {s : State} {r : Request} (h : ControlInv s) (own : s.outstanding = some r) :
    RunningInv s := h.running fun rests => by
  rw [h.outstanding_of_idle rests] at own
  cases own

/-- It still runs when the request is off and the environment has acted. -/
theorem RunningInv.outside {s u : State} {r : Request} {a : Answer} (h : RunningInv s)
    (outside : environmentAnswer r a (takeAnswer a s) = .next u) : RunningInv u := by
  rw [environmentAnswer_onlyOutside outside]
  exact ⟨h.runs, h.busy, h.command, h.position, h.no_error_in_frame⟩

/-- The control part speaks of these registers alone. -/
structure SameControl (s t : State) : Prop where
  mode : t.mode = s.mode
  seq : t.seq = s.seq
  inFlight : t.inFlight = s.inFlight
  outstanding : t.outstanding = s.outstanding
  err : t.err = s.err
  cancelPend : t.cancelPend = s.cancelPend
  n : t.n = s.n
  params : t.params = s.params

theorem ControlInv.keep {s t : State} (h : ControlInv s) (same : SameControl s t) : ControlInv t := by
  have frames : framesInFlight t = framesInFlight s := by rw [framesInFlight, same.inFlight, framesInFlight]
  have bytes : frameByte t = frameByte s := by
    funext f k half
    rw [frameByte, same.inFlight, same.params, same.n, frameByte]
  refine ⟨?_, ?_, ?_, ?_, ?_, ?_, ?_⟩
  · rw [same.mode, same.seq]; exact h.busy_iff
  · rw [same.inFlight, same.mode]; exact h.in_flight_iff
  · rw [same.inFlight, same.n]; exact h.in_flight_fits
  · rw [positionInRange, same.seq, frames, same.n]; exact h.position
  · rw [outstandingMatches, same.seq, same.outstanding, bytes]; exact h.outstanding_matches
  · rw [noErrorInFrame, same.seq, same.err]; exact h.no_error_in_frame
  · rw [same.cancelPend, same.mode]; exact h.cancel_only_busy

theorem ControlInv.answered {c : Collaborator} {a : Answer} {s t : State} (h : ControlInv s) (stored : StoredInv s)
    (did : Answered c a s t) : ControlInv t := by
  cases did with
  | discarded before r after _ owed its oldest outside =>
    rw [lateAnswer_onlyOutside outside]
    exact h.keep ⟨rfl, rfl, rfl, rfl, rfl, rfl, rfl, rfl⟩
  | taken r u _ none_abandoned own its outside block =>
    have running := h.running_of_outstanding own
    have only := environmentAnswer_onlyOutside outside
    have taken : u.outstanding = none := by rw [only]; rfl
    have length : 1 ≤ u.n.toNat := by
      rw [only]
      exact (stored.length_in_range (by simp [running.busy])).1
    have seq : u.seq = s.seq := (environmentAnswer_seq outside).trans rfl
    exact (running.outside outside).blockTook taken length (mt (notWaiting_congr seq).1 (h.waits own)) block
  | nothingOwed none_abandoned none_own => exact h

/-- What acceptance leaves of the control part: a command at rest, or one before its first frame. -/
theorem controlInv_of_accepted {i : Instr} {s t : State} (no_request : s.outstanding = none) (no_error : s.err = none)
    (how : Accepted i s t) : ControlInv t := by
  cases how with
  | error c plain notOk => exact controlInv_endCommand c no_request
  | frames idle fits => exact (RunningInv.beginFrames fits no_error).control no_request
  | configured n is fresh low high => exact controlInv_endCommand .ok (s := { s with n := n, mode := .idle }) no_request
  | rotated m is => exact controlInv_endCommand .ok (s := { s with res := rot m }) no_request

theorem ControlInv.hostDid {act : HostAction} {s t : State} (h : ControlInv s) (did : HostDid act s t) :
    ControlInv t := by
  have no_request (free : s.mode ≠ .busy) : s.outstanding = none := h.outstanding_of_idle (h.seq_of_not_busy free)
  cases did with
  | locked busy is => exact h
  | illegal e is free why => exact controlInv_endCommand _ (no_request free)
  | accepted i _ is free spelt how => exact controlInv_of_accepted (s := beginAcceptance s) (no_request free) rfl how
  | cancelled is =>
    by_cases busy : s.mode = .busy
    · rw [raiseCancel, if_pos busy]
      have running := h.running (h.busy_iff.1 busy)
      exact running.goesOn rfl rfl rfl running.runs h.position h.no_error_in_frame h.outstanding_matches
    · rw [raiseCancel, if_neg busy]
      exact h
  | wasReset is => exact .of_idle rfl (by simp) rfl rfl rfl
  | _ => exact h.keep ⟨rfl, rfl, rfl, rfl, rfl, rfl, rfl, rfl⟩

/-! ### What is stored, step by step -/

theorem SequencerMoved.configured {s t : State} (did : SequencerMoved s t) :
    t.mode = .unconfigured ↔ s.mode = .unconfigured := by
  cases did with
  | cancelled f at_ pending => exact modeAfterEnd_eq_unconfigured
  | _ => exact Iff.rfl

theorem BlockTook.configured {a : Answer} {s t : State} (did : BlockTook a s t) :
    t.mode = .unconfigured ↔ s.mode = .unconfigured := by
  cases did with
  | ended f c at_ first => exact modeAfterEnd_eq_unconfigured
  | endedOk f count at_ first frames last => exact modeAfterEnd_eq_unconfigured
  | _ => exact Iff.rfl

theorem Answered.configured {c : Collaborator} {a : Answer} {s t : State} (did : Answered c a s t) :
    t.mode = .unconfigured ↔ s.mode = .unconfigured := by
  cases did with
  | discarded before r after _ owed its oldest outside =>
    rw [lateAnswer_onlyOutside outside]
  | taken r u _ none_abandoned own its outside block =>
    rw [block.configured, environmentAnswer_onlyOutside outside, takeAnswer_mode]
  | nothingOwed none_abandoned none_own => exact Iff.rfl

theorem StoredInv.accepted {i : Instr} {s t : State} (h : StoredInv s) (how : Accepted i s t) : StoredInv t := by
  cases how with
  | error c plain notOk => exact h.keep ⟨rfl, rfl, rfl, rfl, rfl, rfl, rfl⟩ modeAfterEnd_eq_unconfigured
  | frames idle fits => exact h.keep ⟨rfl, rfl, rfl, rfl, rfl, rfl, rfl⟩ (by simp [idle])
  | configured n is fresh low high => exact ⟨h.params_valid, h.buf_wf, h.buf_in_range, fun _ => ⟨low, high⟩⟩
  | rotated m is =>
    exact ⟨h.params_valid, h.buf_wf, h.buf_in_range,
      fun k => h.length_in_range (mt modeAfterEnd_eq_unconfigured.2 k)⟩

/-- A cancel writes `CANCEL_PEND` at most (rule R30). -/
theorem raiseCancel_only (s : State) : raiseCancel s = { s with cancelPend := (raiseCancel s).cancelPend } := by
  unfold raiseCancel
  split <;> rfl

theorem StoredInv.hostDid {act : HostAction} {s t : State} (h : StoredInv s) (did : HostDid act s t) : StoredInv t := by
  cases did with
  | wroteBuf a v is free inside =>
    refine ⟨h.params_valid, Memory.wf_write h.buf_wf a v, fun c hc => ?_, h.length_in_range⟩
    rcases Memory.mem_write hc with rfl | old
    · exact inside
    · exact h.buf_in_range c old
  | illegal e is free why => exact h.keep ⟨rfl, rfl, rfl, rfl, rfl, rfl, rfl⟩ modeAfterEnd_eq_unconfigured
  | accepted i _ is free spelt how =>
    have begun : StoredInv (beginAcceptance s) := h.keep ⟨rfl, rfl, rfl, rfl, rfl, rfl, rfl⟩ Iff.rfl
    exact begun.accepted how
  | cancelled is =>
    rw [raiseCancel_only]
    exact h.keep ⟨rfl, rfl, rfl, rfl, rfl, rfl, rfl⟩ Iff.rfl
  | wasReset is => exact ⟨h.params_valid, List.Pairwise.nil, by simp, fun m => absurd rfl m⟩
  | _ => exact ⟨h.params_valid, h.buf_wf, h.buf_in_range, h.length_in_range⟩

/-! ### What is known of the chips -/

theorem ChainInv.keep {s t : State} (h : ChainInv s) (chain : t.chain = s.chain) (n : t.n = s.n)
    (abandoned : t.abandoned = s.abandoned) (configured : t.mode = .unconfigured ↔ s.mode = .unconfigured) :
    ChainInv t := by
  have length : chainLength t = chainLength s := by rw [chainLength, chain, n, chainLength]
  refine ⟨?_, ?_, ?_, ?_, ?_, ?_⟩
  · rw [chain]; exact h.creg_wf
  · rw [chain, length]; exact h.sr_bounded
  · rw [chain, length]; exact h.frame_known
  · rw [chain, abandoned]; exact fun fresh => h.chain_unknown (configured.1 fresh)
  · rw [chain, abandoned]; exact h.stale_owed
  · rw [chain]; exact h.stale_first

theorem SequencerMoved.sameOutside {s t : State} (did : SequencerMoved s t) :
    t.chain = s.chain ∧ t.abandoned = s.abandoned := by
  cases did <;> exact ⟨rfl, rfl⟩

theorem BlockTook.sameOutside {a : Answer} {s t : State} (did : BlockTook a s t) :
    t.chain = s.chain ∧ t.abandoned = s.abandoned := by
  cases did <;> exact ⟨rfl, rfl⟩

/-- How many chips there are is known: the block is configured, or they are wired so. -/
abbrev ChainKnown (s : State) : Prop := s.mode = .unconfigured → s.chain.chips ≠ none

/-- What is known of the frame and the shift registers of a chain of `m` chips. -/
structure FrameInv (m : Nat) (c : Chain) : Prop where
  sr_bounded : c.sr.length ≤ 2 * m
  frame_known : c.frameOpen = true → c.bad = false → min c.cnt (2 * m) ≤ c.sr.length
  stale_first : c.stale ≠ 0 → c.cnt = 0

theorem ChainInv.frame {s : State} (h : ChainInv s) : FrameInv (chainLength s) s.chain :=
  ⟨h.sr_bounded, h.frame_known, h.stale_first⟩

/-- A byte shifted in keeps the known bytes in bounds (rule R56). -/
theorem FrameInv.chainTxOk {s : State} (h : FrameInv (chainLength s) s.chain) (fresh : s.chain.stale = 0) (b : Byte) :
    FrameInv (chainLength s) (chainTxOk b s).chain := by
  by_cases opened : s.chain.frameOpen = true
  · rw [chainTxOk_of_frameOpen opened]
    refine ⟨List.length_take_le _ _, fun _ good => ?_, fun stale => absurd fresh stale⟩
    have known := h.frame_known opened good
    simp only [List.length_take, List.length_cons]
    omega
  · simp only [Machine.chainTxOk, if_neg opened]
    exact ⟨Nat.zero_le _, fun again => absurd again opened, h.stale_first⟩

theorem FrameInv.chainTxErr {s : State} (h : FrameInv (chainLength s) s.chain) :
    FrameInv (chainLength s) (chainTxErr s).chain := by
  by_cases opened : s.chain.frameOpen = true
  · simp only [Machine.chainTxErr, if_pos opened]
    exact ⟨Nat.zero_le _, fun _ => nofun, h.stale_first⟩
  · simp only [Machine.chainTxErr, if_neg opened]
    exact ⟨Nat.zero_le _, fun again => absurd again opened, h.stale_first⟩

/-- A deassert answered `ok` closes the frame, with the shift registers kept or forgotten (rules R56, R59). -/
theorem FrameInv.deassertOk {s u : State} (h : FrameInv (chainLength s) s.chain)
    (answered : environmentAnswer (.sel .deassert) .ok s = .next u) :
    FrameInv (chainLength s) u.chain ∧ u.chain.stale = s.chain.stale := by
  simp only [environmentAnswer, chainDeassertOk] at answered
  split at answered
  · obtain ⟨t, ht, cells, -⟩ := latchChips_next (List.range (chainLength (driveLine .deassert .ok s)))
      (closeFrame (driveLine .deassert .ok s)) List.nodup_range
    cases answered.symm.trans ht
    rw [cells]
    exact ⟨⟨h.sr_bounded, nofun, h.stale_first⟩, rfl⟩
  · cases answered
    exact ⟨⟨Nat.zero_le _, nofun, h.stale_first⟩, rfl⟩

/-- An answered request keeps what is known of the frame, and how many bytes are older than it unless it opens one. -/
theorem FrameInv.environmentAnswer {r : Request} {a : Answer} {s u : State} (h : FrameInv (chainLength s) s.chain)
    (fresh : ∀ b, r = .tx b → s.chain.stale = 0) (answered : environmentAnswer r a s = .next u) :
    FrameInv (chainLength s) u.chain ∧ (u.chain.stale = s.chain.stale ∨ u.chain.stale = owedBytes s.abandoned) := by
  cases r with
  | tx b =>
    cases a with
    | ok =>
      cases answered
      refine ⟨h.chainTxOk (fresh b rfl) b, .inl ?_⟩
      unfold Machine.chainTxOk
      split <;> rfl
    | err e =>
      cases answered
      refine ⟨h.chainTxErr, .inl ?_⟩
      unfold Machine.chainTxErr
      split <;> rfl
  | sel l =>
    cases l with
    | assert =>
      cases a with
      | ok =>
        cases answered
        exact ⟨⟨h.sr_bounded, fun _ _ => by simp, fun _ => rfl⟩, .inr rfl⟩
      | err e =>
        cases answered
        exact ⟨⟨h.sr_bounded, fun _ => nofun, h.stale_first⟩, .inl rfl⟩
    | deassert =>
      cases a with
      | ok =>
        obtain ⟨frame, stale⟩ := h.deassertOk answered
        exact ⟨frame, .inl stale⟩
      | err e =>
        cases answered
        exact ⟨⟨Nat.zero_le _, fun _ => nofun, h.stale_first⟩, .inl rfl⟩

theorem ChainInv.environmentAnswer {r : Request} {a : Answer} {s u : State} (h : ChainInv s) (known : ChainKnown s)
    (fresh : ∀ b, r = .tx b → s.chain.stale = 0) (answered : environmentAnswer r a s = .next u) : ChainInv u := by
  obtain ⟨v, hv, only, chips, wf, -⟩ := environmentAnswer_next r a s
  cases answered.symm.trans hv
  obtain ⟨frame, stale⟩ := h.frame.environmentAnswer fresh answered
  have length : chainLength u = chainLength s := by rw [chainLength, chips, only, chainLength]
  have abandoned : u.abandoned = s.abandoned := by rw [only]
  rw [← length] at frame
  refine ⟨wf h.creg_wf, frame.sr_bounded, frame.frame_known, fun fresh none_wired => ?_, ?_, frame.stale_first⟩
  · rw [only] at fresh
    exact absurd (chips.symm.trans none_wired) (known fresh)
  · rw [abandoned]
    rcases stale with same | opened
    · rw [same]; exact h.stale_owed
    · exact Nat.le_of_eq opened

/-- Before an abandoned byte that is older than the open frame the frame has none of its own (rule R203). -/
theorem ChainInv.staleByte {s : State} {before after : List Request} {b : Byte} (h : ChainInv s)
    (known : ChainKnown s) (owed : s.abandoned = before ++ .tx b :: after) (stale : s.chain.stale ≠ 0) (a : Answer) :
    ChainInv (staleByte b a { s with abandoned := before ++ after }) := by
  have none_counted := h.stale_first stale
  have one_less : s.chain.stale - 1 ≤ owedBytes (before ++ after) := by
    have := h.stale_owed
    simp only [owed, owedBytes_append, owedBytes_tx] at this ⊢
    omega
  cases a with
  | ok =>
    refine ⟨h.creg_wf, ?_, fun _ _ => ?_, fun fresh none_wired => absurd none_wired (known fresh), one_less,
      fun _ => none_counted⟩
    · simp only [Machine.staleByte, chainTxOk]
      split
      · exact List.length_take_le _ _
      · exact Nat.zero_le _
    · simp [Machine.staleByte, none_counted]
  | err e =>
    refine ⟨h.creg_wf, ?_, fun _ _ => ?_, fun fresh none_wired => absurd none_wired (known fresh), one_less,
      fun _ => none_counted⟩
    · simp only [Machine.staleByte, chainTxErr]
      split <;> exact Nat.zero_le _
    · simp [Machine.staleByte, none_counted]

/-- The answer to an abandoned request. -/
theorem ChainInv.discarded {s t : State} {before after : List Request} {r : Request} {a : Answer} (h : ChainInv s)
    (owed : s.abandoned = before ++ r :: after)
    (outside : lateAnswer r a { s with abandoned := before ++ after } = .next t) : ChainInv t := by
  have known : ChainKnown s := fun fresh none_wired => by
    simp [(h.chain_unknown fresh none_wired).2.2] at owed
  have removed (still : s.chain.stale ≤ owedBytes (before ++ after)) : ChainInv { s with abandoned := before ++ after } :=
    ⟨h.creg_wf, h.sr_bounded, h.frame_known, fun fresh none_wired => absurd none_wired (known fresh), still,
      h.stale_first⟩
  cases r with
  | sel l =>
    have still : s.chain.stale ≤ owedBytes (before ++ after) := by
      have := h.stale_owed
      rwa [owed, owedBytes_append, owedBytes_sel, ← owedBytes_append] at this
    exact (removed still).environmentAnswer known (fun b hb => by cases hb) outside
  | tx b =>
    by_cases stale : s.chain.stale = 0
    · rw [lateAnswer, if_pos stale] at outside
      exact (removed (by simp [stale])).environmentAnswer known (fun _ _ => stale) outside
    · rw [lateAnswer, if_neg stale] at outside
      cases outside
      exact h.staleByte known owed stale a

theorem ChainInv.answered {c : Collaborator} {a : Answer} {s t : State} (h : ChainInv s) (control : ControlInv s)
    (did : Answered c a s t) : ChainInv t := by
  cases did with
  | discarded before r after _ owed its oldest outside => exact h.discarded owed outside
  | taken r u _ none_abandoned own its outside block =>
    have busy := (control.running_of_outstanding own).busy
    have fresh : ∀ b, r = .tx b → s.chain.stale = 0 := fun b is => by
      subst is its
      have := h.stale_owed
      rw [owedBytes_eq_zero.2 none_abandoned] at this
      omega
    have taken : ChainInv (takeAnswer a s) := h.keep rfl rfl rfl Iff.rfl
    have answered := taken.environmentAnswer (fun unconfigured => by simp [busy] at unconfigured) fresh outside
    obtain ⟨chain, abandoned⟩ := block.sameOutside
    exact answered.keep chain block.sameRegisters.n abandoned block.configured
  | nothingOwed none_abandoned none_own => exact h

theorem ChainInv.sequencerMoved {s t : State} (h : ChainInv s) (did : SequencerMoved s t) : ChainInv t :=
  h.keep did.sameOutside.1 did.sameRegisters.n did.sameOutside.2 did.configured

/-- A CONFIGURE that succeeds names the length of a chain of which nothing is known, or leaves the length wired. -/
theorem ChainInv.configure {s t : State} (h : ChainInv s) (fresh : s.mode = .unconfigured) (mode : t.mode ≠ .unconfigured)
    (chain : t.chain = s.chain) (abandoned : t.abandoned = s.abandoned) : ChainInv t := by
  cases wired : s.chain.chips with
  | none =>
    obtain ⟨nothing, closed, none_owed⟩ := h.chain_unknown fresh wired
    have no_stale : s.chain.stale = 0 := by
      have := h.stale_owed
      simpa [none_owed] using this
    refine ⟨?_, ?_, ?_, fun unconfigured => absurd unconfigured mode, ?_, ?_⟩ <;> rw [chain]
    · exact h.creg_wf
    · simp [nothing]
    · simp [closed]
    · simp [no_stale]
    · simp [no_stale]
  | some m =>
    have length : chainLength t = chainLength s := by rw [chainLength, chain, wired, chainLength, wired]; rfl
    refine ⟨?_, ?_, ?_, fun unconfigured => absurd unconfigured mode, ?_, ?_⟩ <;> rw [chain]
    · exact h.creg_wf
    · rw [length]; exact h.sr_bounded
    · rw [length]; exact h.frame_known
    · rw [abandoned]; exact h.stale_owed
    · exact h.stale_first

theorem ChainInv.accepted {i : Instr} {s t : State} (h : ChainInv s) (how : Accepted i s t) : ChainInv t := by
  cases how with
  | error c plain notOk => exact h.keep rfl rfl rfl modeAfterEnd_eq_unconfigured
  | frames idle fits => exact h.keep rfl rfl rfl (by simp [idle])
  | configured n is fresh low high => exact h.configure fresh (by simp [modeAfterEnd]) rfl rfl
  | rotated m is => exact h.keep rfl rfl rfl modeAfterEnd_eq_unconfigured

/-- A `RESET` keeps the chain's length, or nothing was known of the chain (log entry 7). -/
theorem ChainInv.resetBlock {s : State} (h : ChainInv s) (control : ControlInv s) : ChainInv (resetBlock s) := by
  have owed : s.chain.stale ≤ owedBytes (s.abandoned ++ s.outstanding.toList) := by
    rw [owedBytes_append]
    exact Nat.le_add_right_of_le h.stale_owed
  by_cases fresh : s.mode = .unconfigured ∧ s.chain.chips = none
  · obtain ⟨unconfigured, none_wired⟩ := fresh
    obtain ⟨nothing, closed, none_owed⟩ := h.chain_unknown unconfigured none_wired
    have no_request := control.outstanding_of_idle (control.seq_of_not_busy (by simp [unconfigured]))
    refine ⟨h.creg_wf, ?_, ?_, fun _ _ => ⟨nothing, closed, ?_⟩, owed, h.stale_first⟩
    · simp [nothing]
    · simp [closed]
    · simp [none_owed, no_request]
  · have length : chainLength (Machine.resetBlock s) = chainLength s ∧ (Machine.resetBlock s).chain.chips ≠ none := by
      by_cases unconfigured : s.mode = .unconfigured
      · obtain ⟨m, wired⟩ := Option.ne_none_iff_exists'.1 fun none_wired => fresh ⟨unconfigured, none_wired⟩
        simp [chainLength, unconfigured, wired]
      · simp [chainLength, unconfigured]
    refine ⟨h.creg_wf, ?_, ?_, fun _ none_wired => absurd none_wired length.2, owed, h.stale_first⟩
    · rw [length.1]; exact h.sr_bounded
    · rw [length.1]; exact h.frame_known

theorem ChainInv.hostDid {act : HostAction} {s t : State} (h : ChainInv s) (control : ControlInv s)
    (did : HostDid act s t) : ChainInv t := by
  cases did with
  | illegal e is free why => exact h.keep rfl rfl rfl modeAfterEnd_eq_unconfigured
  | accepted i _ is free spelt how =>
    have begun : ChainInv (beginAcceptance s) := h.keep rfl rfl rfl Iff.rfl
    exact begun.accepted how
  | cancelled is =>
    rw [raiseCancel_only]
    exact h.keep rfl rfl rfl Iff.rfl
  | wasReset is => exact h.resetBlock control
  | _ => exact h.keep rfl rfl rfl Iff.rfl

/-! ### The obligations -/

/-- Settles O37: after reset the block rests, `BUF` and the chips are unwritten, and the trace is empty. -/
theorem resetMeetsInvariant : Obligations.ResetMeetsInvariant := by
  have stored : StoredInv State.reset :=
    ⟨⟨by decide, by decide, by decide, by decide, List.Pairwise.nil⟩, List.Pairwise.nil, by simp [State.reset], by decide⟩
  have control : ControlInv State.reset := .of_idle rfl (by decide) rfl rfl rfl
  have chain : ChainInv State.reset :=
    ⟨List.Pairwise.nil, Nat.zero_le _, by simp [State.reset, Chain.initial], fun _ _ => ⟨rfl, rfl, rfl⟩, Nat.le_refl _,
      fun h => absurd rfl h⟩
  exact ⟨(inv_iff _).2 ⟨stored, control, chain⟩, .closed, rfl, rfl⟩

/-- Settles O38: each part of the invariant is kept by whichever agent takes the step. -/
theorem stepKeepsInvariant : Obligations.StepKeepsInvariant := by
  intro s t inv h
  obtain ⟨s', taken, acted⟩ := acted_of_step h
  obtain ⟨stored, control, chain⟩ := (inv_iff s').1 (inv.turnTaken taken)
  rw [inv_iff]
  cases acted with
  | host act rest turn did => exact ⟨stored.hostDid did, control.hostDid did, chain.hostDid control did⟩
  | sequencer turn did =>
    exact ⟨stored.keep did.sameRegisters did.configured, control.sequencerMoved did, chain.sequencerMoved did⟩
  | answer c a turn did =>
    exact ⟨stored.keep did.sameRegisters did.configured, control.answered stored did, chain.answered control did⟩

end Sys2Proof.Machine
end

section
/-! The select discipline of rule R108: one event more, then what each agent does to the bracket the trace stands at. Then
the obligation that every step but a `RESET` while BUSY keeps the discipline. -/

namespace Sys2Proof.Machine

/-- One event more leads on from the bracket a trace leads to. -/
theorem bracketAfter_event {b₀ b b' : Bracket} {e : Event} {es : List Event} (sofar : bracketAfter b₀ es = some b)
    (allowed : b.after e = some b') : bracketAfter b₀ (es ++ [e]) = some b' := by
  induction es generalizing b₀ with
  | nil =>
    cases sofar
    simp [bracketAfter, allowed]
  | cons d es ih =>
    obtain ⟨b₁, first, others⟩ := Option.bind_eq_some_iff.1 sofar
    rw [List.cons_append, bracketAfter, first, Option.bind_some, ih others]

/-- The bracket depends on the trace, `SEQ`, the latch and `N` alone. -/
theorem Bracketed.keep {s t : State} (h : Bracketed s) (trace : t.trace = s.trace) (seq : t.seq = s.seq)
    (err : t.err = s.err) (n : t.n = s.n) : Bracketed t := by
  obtain ⟨b, sofar, standing⟩ := h
  refine ⟨b, by rw [trace]; exact sofar, ?_⟩
  rw [bracketMatches, seq, err, n]
  exact standing

/-- A block at rest has no frame open. -/
theorem Bracketed.closed_of_idle {s : State} (h : Bracketed s) (rests : s.seq = .idle) :
    bracketAfter .closed s.trace = some .closed := by
  obtain ⟨b, sofar, standing⟩ := h
  rw [bracketMatches, rests] at standing
  rwa [standing] at sofar

/-- `DONE` with no frame open (rule R108 (d)). -/
theorem bracketed_endCommand (c : Completion) {s : State} (closed : bracketAfter .closed s.trace = some .closed) :
    Bracketed (endCommand c s) :=
  ⟨.closed, bracketAfter_event closed rfl, rfl⟩

theorem latchError_ne_none (old : Option Completion) (c : Completion) : latchError old c ≠ none := by
  cases old <;> simp [latchError]

/-- A byte inside the frame is one of its 2·N (rule R46). -/
theorem byteIndex_le {n t : Nat} (h : Half) (slot : t < n) : byteIndex t h ≤ 2 * n := by
  cases h <;> simp only [byteIndex] <;> omega

theorem Bracketed.hostDid {act : HostAction} {s t : State} (h : Bracketed s) (control : ControlInv s)
    (not_reset : s.mode = .busy → act ≠ .reset) (did : HostDid act s t) : Bracketed t := by
  have closed (free : s.mode ≠ .busy) := h.closed_of_idle (control.seq_of_not_busy free)
  cases did with
  | illegal e is free why => exact bracketed_endCommand _ (s := beginAcceptance s) (closed free)
  | accepted i _ is free spelt how =>
    cases how with
    | error c plain notOk => exact bracketed_endCommand c (s := beginAcceptance s) (closed free)
    | frames idle fits => exact ⟨.closed, closed free, rfl⟩
    | configured n is fresh low high => exact ⟨.closed, bracketAfter_event (closed free) rfl, rfl⟩
    | rotated m is => exact ⟨.closed, bracketAfter_event (closed free) rfl, rfl⟩
  | cancelled is =>
    rw [raiseCancel_only]
    exact h.keep rfl rfl rfl rfl
  | wasReset is => exact ⟨.closed, closed fun busy => not_reset busy is, rfl⟩
  | _ => exact h.keep rfl rfl rfl rfl

theorem Bracketed.sequencerMoved {s t : State} (h : Bracketed s) (control : ControlInv s) (did : SequencerMoved s t) :
    Bracketed t := by
  have position := control.position
  obtain ⟨b, sofar, standing⟩ := h
  cases did with
  | rests idle => exact ⟨b, sofar, standing⟩
  | cancelled f at_ pending =>
    rw [bracketMatches, at_] at standing
    subst standing
    exact ⟨.closed, bracketAfter_event sofar rfl, rfl⟩
  | asserts f at_ go =>
    rw [bracketMatches, at_] at standing
    subst standing
    exact ⟨.asserting, bracketAfter_event sofar rfl, rfl⟩
  | cutShort f t half at_ pending =>
    rw [bracketMatches, at_] at standing
    rw [positionInRange, at_] at position
    exact ⟨b, sofar, .inr ⟨latchError_ne_none _ _, _, byteIndex_le half position.2, .inl standing⟩⟩
  | sends f t half byte at_ go is =>
    rw [bracketMatches, at_] at standing
    subst standing
    exact ⟨_, bracketAfter_event sofar rfl, rfl⟩
  | releases f at_ =>
    rw [bracketMatches, at_] at standing
    have allowed : b.after (.sel .deassert) = some .releasing := by
      rcases standing with ⟨-, rfl⟩ | ⟨-, k, -, rfl | rfl⟩ <;> rfl
    exact ⟨.releasing, bracketAfter_event sofar allowed, rfl⟩

/-- The block takes the answer to its request: the trace has the answer, then `DONE` where the command ends. -/
theorem bracketed_blockTook {a : Answer} {s t : State} {b : Bracket} {es : List Event}
    (trace : s.trace = es ++ [.answered a]) (sofar : bracketAfter .closed es = some b) (standing : bracketMatches s b) (running : RunningInv s)
    (waits : ¬ NotWaiting s) (did : BlockTook a s t) : Bracketed t := by
  have position := running.position
  have no_error := running.no_error_in_frame
  have answered {b'} (allowed : b.after (.answered a) = some b') : bracketAfter .closed s.trace = some b' := by
    rw [trace]
    exact bracketAfter_event sofar allowed
  cases did with
  | nothing notWaiting => exact absurd notWaiting waits
  | asserted f at_ is =>
    rw [bracketMatches, at_] at standing
    subst standing is
    exact ⟨.inFrame 0, answered rfl, rfl⟩
  | assertFailed f e at_ is =>
    rw [bracketMatches, at_] at standing
    subst standing is
    exact ⟨.failed 0, answered rfl, .inr ⟨latchError_ne_none _ _, 0, Nat.zero_le _, .inr rfl⟩⟩
  | sent f t half at_ is =>
    rw [bracketMatches, at_] at standing
    rw [positionInRange, at_] at position
    rw [noErrorInFrame, at_] at no_error
    subst standing is
    refine ⟨.inFrame (byteIndex t half + 1), answered rfl, ?_⟩
    rcases afterByte_cases s.n.toNat f t half with ⟨rfl, next⟩ | ⟨rfl, more, next⟩ | ⟨rfl, last, next⟩
    · rw [next]
      exact rfl
    · rw [next]
      exact rfl
    · rw [next]
      have whole : byteIndex t .data + 1 = 2 * s.n.toNat := by
        have := position.2
        simp only [byteIndex]
        omega
      exact .inl ⟨no_error, by rw [whole]⟩
  | sendFailed f t half e at_ is =>
    rw [bracketMatches, at_] at standing
    rw [positionInRange, at_] at position
    subst standing is
    exact ⟨.failed (byteIndex t half), answered rfl,
      .inr ⟨latchError_ne_none _ _, _, byteIndex_le half position.2, .inr rfl⟩⟩
  | ended f c at_ first =>
    rw [bracketMatches, at_] at standing
    subst standing
    exact ⟨.closed, bracketAfter_event (answered rfl) rfl, rfl⟩
  | nextFrame f count at_ first frames more =>
    rw [bracketMatches, at_] at standing
    subst standing
    exact ⟨.closed, answered rfl, rfl⟩
  | endedOk f count at_ first frames last =>
    rw [bracketMatches, at_] at standing
    subst standing
    exact ⟨.closed, bracketAfter_event (answered rfl) rfl, rfl⟩

theorem Bracketed.answered {c : Collaborator} {a : Answer} {s t : State} (h : Bracketed s) (control : ControlInv s)
    (did : Answered c a s t) : Bracketed t := by
  cases did with
  | discarded before r after _ owed its oldest outside =>
    rw [lateAnswer_onlyOutside outside]
    exact h.keep rfl rfl rfl rfl
  | taken r u _ none_abandoned own its outside block =>
    obtain ⟨b, sofar, standing⟩ := h
    have running := control.running_of_outstanding own
    have only := environmentAnswer_onlyOutside outside
    have trace : u.trace = s.trace ++ [.answered a] := by rw [only]; rfl
    have standing' : bracketMatches u b := by
      rw [only]
      exact standing
    have seq : u.seq = s.seq := (environmentAnswer_seq outside).trans rfl
    have waits := mt (notWaiting_congr seq).1 (control.waits own)
    exact bracketed_blockTook trace sofar standing' (running.outside outside) waits block
  | nothingOwed none_abandoned none_own => exact h

/-- Settles O39: whichever agent takes the step, the events it adds lead from the bracket `SEQ` stands for to the one it
stands for afterwards. -/
theorem stepKeepsSelectDiscipline : Obligations.StepKeepsSelectDiscipline := by
  intro s t inv bracketed not_reset h
  obtain ⟨s', taken, acted⟩ := acted_of_step h
  have control := ((inv_iff s').1 (inv.turnTaken taken)).2.1
  have bracketed' : Bracketed s' := by
    rw [taken]
    exact bracketed.keep rfl rfl rfl rfl
  cases acted with
  | host act rest turn did =>
    have mode : s'.mode = s.mode := by rw [taken]
    refine bracketed'.hostDid control (fun busy is => not_reset ⟨mode.symm.trans busy, ?_⟩) did
    rw [turn, is]
    rfl
  | sequencer turn did => exact bracketed'.sequencerMoved control did
  | answer c a turn did => exact bracketed'.answered control did

end Sys2Proof.Machine
end

section
/-! Where the machine stops: the two places a sequencer can be stuck at, which the invariant rules out, and a write of `BUF`
beyond its end. Then the obligation that nothing else stops it. -/

namespace Sys2Proof.Machine

/-- The sequencer stands at a byte, or after a frame, that no running command has (log entry 24). -/
def Stuck (s : State) : Prop :=
  (∃ f t h, s.seq = .byte f t h ∧ frameByte s f t h = none) ∨ (∃ f, s.seq = .waitRelease f ∧ framesInFlight s = none)

theorem sequencerStep_next_or_stuck (s : State) :
    (∃ t, sequencerStep s = .next t) ∨ (Stuck s ∧ sequencerStep s = .fault .noFrameToSend) := by
  cases at_ : s.seq with
  | byte f t h =>
    simp only [sequencerStep, at_, byteStep]
    split
    · exact .inl ⟨_, rfl⟩
    · cases is : frameByte s f t h with
      | some b => exact .inl ⟨_, rfl⟩
      | none => exact .inr ⟨.inl ⟨f, t, h, at_, is⟩, rfl⟩
  | _ =>
    simp only [sequencerStep, at_]
    exact .inl ⟨_, rfl⟩

theorem blockAnswer_next_or_stuck (a : Answer) (s : State) :
    (∃ t, blockAnswer a s = .next t) ∨ (Stuck s ∧ blockAnswer a s = .fault .noFrameToSend) := by
  cases at_ : s.seq with
  | waitRelease f =>
    simp only [blockAnswer, at_, releaseAnswered, nextFrame]
    split
    · exact .inl ⟨_, rfl⟩
    · split
      · rename_i none_running
        exact .inr ⟨.inr ⟨f, at_, none_running⟩, rfl⟩
      · split <;> exact .inl ⟨_, rfl⟩
  | _ =>
    simp only [blockAnswer, at_]
    exact .inl ⟨_, rfl⟩

theorem answerStep_next_or_stuck (c : Collaborator) (a : Answer) (s : State) :
    (∃ t, answerStep c a s = .next t) ∨ (Stuck s ∧ answerStep c a s = .fault .noFrameToSend) := by
  unfold answerStep
  split
  · obtain ⟨t, ht, -⟩ := lateAnswer_next ‹_› a { s with abandoned := ‹_› }
    exact .inl ⟨t, ht⟩
  · split
    · rename_i r own
      split
      · obtain ⟨u, outside, only, -⟩ := environmentAnswer_next r a (takeAnswer a s)
        rw [outside, andThen_next]
        rcases blockAnswer_next_or_stuck a u with goes | ⟨stuck, stops⟩
        · exact .inl goes
        · rw [only] at stuck
          exact .inr ⟨stuck, stops⟩
      · exact .inl ⟨s, rfl⟩
    · exact .inl ⟨s, rfl⟩

/-- A step goes on, or the host writes beyond the end of `BUF`, or the sequencer is stuck. -/
theorem step_next_or_stops (s : State) :
    (∃ t, step s = .next t) ∨
    (∃ a v rest, s.schedule = .host (.writeBuf a v) :: rest ∧ s.mode ≠ .busy ∧ s.params.bufMax ≤ a ∧
      step s = .fault (.noSuchBufByte a)) ∨
    (Stuck s ∧ step s = .fault .noFrameToSend) := by
  cases turns : s.schedule with
  | cons turn rest =>
    rw [step_turn turns]
    cases turn with
    | host act =>
      by_cases goes : ∃ t, hostStep act { s with schedule := rest } = .next t
      · exact .inl goes
      · obtain ⟨a, v, rfl, free, beyond, stops⟩ := hostStep_stops (not_exists.1 goes)
        exact .inr (.inl ⟨a, v, rest, rfl, free, beyond, stops⟩)
    | sequencer => exact (sequencerStep_next_or_stuck { s with schedule := rest }).imp id .inr
    | answer c a => exact (answerStep_next_or_stuck c a { s with schedule := rest }).imp id .inr
  | nil =>
    rw [step_free turns, freeTurn]
    split
    · exact (sequencerStep_next_or_stuck s).imp id .inr
    · split
      · exact (answerStep_next_or_stuck _ _ { s with draws := s.draws + 1 }).imp id .inr
      · exact .inl ⟨s, rfl⟩

/-- Under the invariant the sequencer stands at a frame and slot of the running command. -/
theorem ControlInv.not_stuck {s : State} (h : ControlInv s) : ¬ Stuck s := by
  have position := h.position
  rintro (⟨f, t, half, at_, none_to_send⟩ | ⟨f, at_, none_running⟩)
  · rw [positionInRange, at_] at position
    obtain ⟨i, command, fits⟩ := (h.running (by simp [at_])).command
    obtain ⟨p, pair⟩ := framePair_of_fits fits (glyphRow s.params) f position.2
    rw [frameByte_of_framePair half command pair] at none_to_send
    cases none_to_send
  · rw [positionInRange, at_, none_running] at position
    exact Nat.not_lt_zero f position

/-- Settles O40: a step stops only at the write beyond `BUF`, or stuck, which the invariant excludes. -/
theorem onlyBadBufWriteStops : Obligations.OnlyBadBufWriteStops := by
  intro s
  rcases step_next_or_stops s with ⟨t, goes⟩ | ⟨a, v, rest, turn, free, beyond, stops⟩ | ⟨stuck, stops⟩
  · simp [goes]
  · refine ⟨by simp [stops], fun _ e h => ⟨a, v, rest, turn, free, beyond, ?_⟩⟩
    cases stops.symm.trans h
    rfl
  · exact ⟨by simp [stops], fun inv => absurd stuck ((inv_iff s).1 inv).2.1.not_stuck⟩

end Sys2Proof.Machine
end

section
/-! How a command is accepted, said once for all that send frames: by the check of its operands (rules R106, R111 to R115,
R136). -/

namespace Sys2Proof.Machine

/-- The operand check of a frame-sending command, which only WRITE_LINE and WRITE_DEVICE have. -/
def operandError (i : Instr) (n : Byte) : Option Completion :=
  match i with
  | .writeLine line payload => writeLineError line payload n
  | .writeDevice dev _ _ => writeDeviceError dev n
  | _ => none

theorem exec_of_frameCount {i : Instr} (sends : frameCount i ≠ none) (s : State) :
    exec i s = acceptFrames i (operandError i s.n) s := by
  cases i <;> simp [frameCount] at sends <;> rfl

/-- A command configures, rotates or sends frames. -/
theorem isCommand.kind {i : Instr} (command : isCommand i) :
    (∃ n, i = .configure n) ∨ (∃ m, i = .rotate m) ∨ frameCount i ≠ none := by
  cases i with
  | configure n => exact .inl ⟨n, rfl⟩
  | rotate m => exact .inr (.inl ⟨m, rfl⟩)
  | pairNoop d => exact absurd rfl (command .noop d)
  | pairRow0 d => exact absurd rfl (command .row0 d)
  | pairRow1 d => exact absurd rfl (command .row1 d)
  | pairRow2 d => exact absurd rfl (command .row2 d)
  | pairRow3 d => exact absurd rfl (command .row3 d)
  | pairRow4 d => exact absurd rfl (command .row4 d)
  | pairRow5 d => exact absurd rfl (command .row5 d)
  | pairRow6 d => exact absurd rfl (command .row6 d)
  | pairRow7 d => exact absurd rfl (command .row7 d)
  | pairDecodeMode d => exact absurd rfl (command .decodeMode d)
  | pairIntensity d => exact absurd rfl (command .intensity d)
  | pairScanLimit d => exact absurd rfl (command .scanLimit d)
  | pairOnOff d => exact absurd rfl (command .onOff d)
  | pairDisplayTest d => exact absurd rfl (command .displayTest d)
  | _ => exact .inr (.inr (by simp [frameCount]))

section
variable {s : State}

theorem acceptFrames_unconfigured (i : Instr) (e : Option Completion) (fresh : s.mode = .unconfigured) :
    acceptFrames i e s = .next (endCommand .configError s) := by
  simp only [acceptFrames, fresh]

theorem acceptFrames_error (i : Instr) (c : Completion) (idle : s.mode = .idle) :
    acceptFrames i (some c) s = .next (endCommand c s) := by
  simp only [acceptFrames, idle]

theorem acceptFrames_begins (i : Instr) (idle : s.mode = .idle) :
    acceptFrames i none s = .next (beginFrames i s) := by
  simp only [acceptFrames, idle]

theorem execConfigure_allowed {n : Byte} (fresh : s.mode = .unconfigured) (allowed : lengthAllowed s.params n = true) :
    execConfigure n s = .next (endCommand .ok { s with n := n, mode := .idle }) := by
  simp only [execConfigure, fresh, allowed, if_true]

theorem execConfigure_refused {n : Byte}
    (why : s.mode = .idle ∨ (s.mode = .unconfigured ∧ lengthAllowed s.params n = false)) :
    execConfigure n s = .next (endCommand .configError s) := by
  rcases why with idle | ⟨fresh, beyond⟩
  · simp only [execConfigure, idle]
  · simp only [execConfigure, fresh, beyond, Bool.false_eq_true, if_false]

theorem execRotate_of_not_busy (m : Matrix8) (free : s.mode ≠ .busy) :
    execRotate m s = .next (endCommand .ok { s with res := rot m }) := by
  unfold execRotate
  split
  · exact absurd ‹_› free
  · rfl
  · rfl

end

end Sys2Proof.Machine
end

section
/-! The block reads neither the line nor the chips: each agent's move on a state is its move on the same state with others
put there, but for what is there. Then the obligation. -/

namespace Sys2Proof.Machine

/-- The state with another line and other chips. -/
abbrev withOutside (c : Chain) (l : Option Sel) (s : State) : State := { s with chain := c, line := l }

/-- A collaborator that owes no answer has nothing to answer. -/
theorem answerStep_nothingOwed {s : State} {k : Collaborator} (a : Answer)
    (none_abandoned : ∀ q ∈ s.abandoned, requestedOf q ≠ k)
    (none_own : ∀ r, s.outstanding = some r → requestedOf r ≠ k) : answerStep k a s = .next s := by
  unfold answerStep
  rw [takeOldest_eq_none.2 none_abandoned]
  cases own : s.outstanding with
  | none => rfl
  | some r => exact if_neg (none_own r own)

variable {s t : State} (c : Chain) (l : Option Sel)

theorem exec_withOutside {i : Instr} (command : isCommand i) (free : s.mode ≠ .busy) (h : exec i s = .next t) :
    exec i (withOutside c l s) = .next (withOutside c l t) := by
  rcases command.kind with ⟨n, rfl⟩ | ⟨m, rfl⟩ | sends
  · simp only [exec, execConfigure] at h ⊢
    cases mode : s.mode <;> simp only [mode] at h ⊢
    · split at h
      · cases h
        exact if_pos ‹_›
      · cases h
        exact if_neg ‹_›
    · cases h
      rfl
    · exact absurd mode free
  · rw [exec, execRotate_of_not_busy m free] at h
    cases h
    exact execRotate_of_not_busy m free
  · rw [exec_of_frameCount sends] at h ⊢
    simp only [acceptFrames] at h ⊢
    cases mode : s.mode <;> simp only [mode] at h ⊢
    · cases h
      rfl
    · cases error : operandError i s.n <;> simp only [error] at h ⊢ <;> cases h <;> rfl
    · exact absurd mode free

theorem startCommand_withOutside (h : startCommand s = .next t) :
    startCommand (withOutside c l s) = .next (withOutside c l t) := by
  have fetched : fetchCommand (withOutside c l s) = fetchCommand s := rfl
  unfold startCommand at h ⊢
  by_cases free : s.mode = .busy
  · rw [if_pos free] at h ⊢
    cases h
    rfl
  · rw [if_neg free] at h ⊢
    rw [fetched]
    cases spelt : fetchCommand s with
    | error e =>
      rw [spelt] at h
      cases h
      rfl
    | ok i =>
      rw [spelt] at h
      exact exec_withOutside c l (s := beginAcceptance s) (isCommand_of_decodeDescriptor spelt) free h

/-- What a step on a state with other chips and another line comes to. -/
abbrev GoesAlike (r : Result) (t : State) : Prop := ∃ t', r = .next t' ∧ onlyOutside t t'

theorem goesAlike_ite {p : Prop} [Decidable p] {u v : State}
    (h : (if p then Host.Outcome.next u else .next v : Result) = .next t) :
    GoesAlike (if p then .next (withOutside c l u) else .next (withOutside c l v)) t := by
  split at h <;> rename_i hp <;> cases h
  · exact ⟨_, if_pos hp, rfl⟩
  · exact ⟨_, if_neg hp, rfl⟩

theorem hostStep_withOutside {act : HostAction} (h : hostStep act s = .next t) :
    GoesAlike (hostStep act (withOutside c l s)) t := by
  cases act with
  | writeW0 v => exact goesAlike_ite c l h
  | writeW1 v => exact goesAlike_ite c l h
  | writeW2 v => exact goesAlike_ite c l h
  | writeBuf a v =>
    simp only [hostStep, writeBuf] at h ⊢
    split at h
    · cases h
      exact ⟨_, if_pos ‹_›, rfl⟩
    · split at h
      · cases h
        exact ⟨_, (if_neg ‹_›).trans (if_pos ‹_›), rfl⟩
      · cases h
  | start => exact ⟨_, startCommand_withOutside c l h, rfl⟩
  | cancel =>
    cases h
    refine ⟨_, rfl, ?_⟩
    unfold raiseCancel
    split <;> rfl
  | read r =>
    cases h
    exact ⟨_, rfl, rfl⟩
  | reset =>
    cases h
    exact ⟨_, rfl, rfl⟩

theorem sequencerStep_withOutside (h : sequencerStep s = .next t) :
    sequencerStep (withOutside c l s) = .next (withOutside c l t) := by
  cases at_ : s.seq with
  | byte f k half =>
    have same : frameByte (withOutside c l s) f k half = frameByte s f k half := rfl
    simp only [sequencerStep, at_, byteStep] at h ⊢
    by_cases pending : s.cancelPend = true
    · rw [if_pos pending] at h ⊢
      cases h
      rfl
    · rw [if_neg pending] at h ⊢
      rw [same]
      cases is : frameByte s f k half <;> rw [is] at h <;> cases h
      rfl
  | assert f =>
    simp only [sequencerStep, at_] at h ⊢
    cases h
    unfold assertStep
    split <;> rfl
  | _ =>
    simp only [sequencerStep, at_] at h ⊢
    cases h
    rfl

theorem nextFrame_withOutside {f : Nat} (h : nextFrame f s = .next t) :
    nextFrame f (withOutside c l s) = .next (withOutside c l t) := by
  have same : framesInFlight (withOutside c l s) = framesInFlight s := rfl
  unfold nextFrame at h ⊢
  rw [same]
  cases first : s.err with
  | some e =>
    simp only [first] at h ⊢
    cases h
    rfl
  | none =>
    simp only [first] at h ⊢
    cases frames : framesInFlight s with
    | none =>
      simp only [frames] at h
      cases h
    | some count =>
      simp only [frames] at h ⊢
      split at h
      · cases h
        exact if_pos ‹_›
      · cases h
        exact if_neg ‹_›

theorem blockAnswer_withOutside {a : Answer} (h : blockAnswer a s = .next t) :
    blockAnswer a (withOutside c l s) = .next (withOutside c l t) := by
  cases at_ : s.seq with
  | waitAssert f =>
    simp only [blockAnswer, at_] at h ⊢
    cases h
    cases a <;> rfl
  | waitByte f k half =>
    simp only [blockAnswer, at_] at h ⊢
    cases h
    cases a <;> rfl
  | waitRelease f =>
    simp only [blockAnswer, at_] at h ⊢
    exact nextFrame_withOutside c l (s := { s with
      selState := selStateAfter .deassert a, err := errAfterRelease s.err a }) h
  | _ =>
    simp only [blockAnswer, at_] at h ⊢
    cases h
    rfl

theorem answerStep_withOutside {k : Collaborator} {a : Answer} (h : answerStep k a s = .next t) :
    GoesAlike (answerStep k a (withOutside c l s)) t := by
  cases answerStep_cases h with
  | discarded before r after _ owed its oldest outside =>
    obtain ⟨t', late, only, -⟩ := lateAnswer_next r a { withOutside c l s with abandoned := before ++ after }
    refine ⟨t', (answerStep_abandoned (s := withOutside c l s) a owed its oldest).trans late, ?_⟩
    rw [lateAnswer_onlyOutside outside, only]
  | taken r u _ none_abandoned own its outside block =>
    obtain ⟨u', outside', only, -⟩ := environmentAnswer_next r a (takeAnswer a (withOutside c l s))
    have same : u' = withOutside u'.chain u'.line u := by
      rw [environmentAnswer_onlyOutside outside, only]
      rfl
    rw [answerStep_own a none_abandoned own its, outside, andThen_next] at h
    rw [answerStep_own (s := withOutside c l s) a none_abandoned own its, outside', andThen_next, same]
    exact ⟨_, blockAnswer_withOutside _ _ h, rfl⟩
  | nothingOwed none_abandoned none_own =>
    exact ⟨_, answerStep_nothingOwed (s := withOutside c l s) a none_abandoned none_own, rfl⟩

/-- Settles O49: the turn is the same, and so is the agent's move. -/
theorem blockNeverReadsTheChips : Obligations.BlockNeverReadsTheChips := by
  intro s t c l h
  change GoesAlike (step (withOutside c l s)) t
  cases turns : s.schedule with
  | cons turn rest =>
    rw [step_turn turns] at h
    rw [step_turn (s := withOutside c l s) turns]
    cases turn with
    | host act => exact hostStep_withOutside c l h
    | sequencer => exact ⟨_, sequencerStep_withOutside c l h, rfl⟩
    | answer k a => exact answerStep_withOutside c l h
  | nil =>
    rw [step_free turns, freeTurn] at h
    rw [step_free (s := withOutside c l s) turns, freeTurn]
    split at h
    · rw [if_pos ‹_›]
      exact ⟨_, sequencerStep_withOutside c l h, rfl⟩
    · rw [if_neg ‹_›]
      have same : owing (withOutside c l s) = owing s := rfl
      rw [same]
      cases owes : owing s <;> rw [owes] at h
      · cases h
        exact ⟨_, rfl, rfl⟩
      · exact answerStep_withOutside c l h

end Sys2Proof.Machine
end

section
/-! What an agent's move leaves of each register, one lemma per register and agent. Then the obligations on who writes
what. -/

namespace Sys2Proof.Machine

/-! ### The trace and the request -/

/-- The trace of `t` is that of `s` and more (rule R10). -/
abbrev TraceGrows (s t : State) : Prop := ∃ es, t.trace = s.trace ++ es

theorem TraceGrows.refl (s : State) : TraceGrows s s := ⟨[], (List.append_nil _).symm⟩

theorem SequencerMoved.traceGrows {s t : State} (did : SequencerMoved s t) : TraceGrows s t := by
  cases did with
  | rests idle => exact .refl s
  | cutShort f k half at_ pending => exact .refl s
  | _ => exact ⟨_, rfl⟩

/-- The block's taking of an answer leaves the request off, and adds `DONE` at most. -/
theorem BlockTook.outstanding {a : Answer} {s t : State} (did : BlockTook a s t) : t.outstanding = s.outstanding := by
  cases did <;> rfl

theorem BlockTook.traceGrows {a : Answer} {s t : State} (did : BlockTook a s t) : TraceGrows s t := by
  cases did with
  | ended f c at_ first => exact ⟨_, rfl⟩
  | endedOk f count at_ first frames last => exact ⟨_, rfl⟩
  | _ => exact .refl s

/-- The block's own answer takes the request away and is put in the trace. -/
theorem trace_of_taken {r : Request} {a : Answer} {s u t : State}
    (outside : environmentAnswer r a (takeAnswer a s) = .next u) (block : BlockTook a u t) :
    t.outstanding = none ∧ t.abandoned = s.abandoned ∧ ∃ es, t.trace = s.trace ++ .answered a :: es := by
  obtain ⟨es, more⟩ := block.traceGrows
  have outstanding := block.outstanding
  have abandoned := block.sameOutside.2
  rw [environmentAnswer_onlyOutside outside] at more outstanding abandoned
  refine ⟨outstanding, abandoned, es, ?_⟩
  rw [more, takeAnswer_trace, List.append_assoc, List.singleton_append]

theorem Answered.traceGrows {c : Collaborator} {a : Answer} {s t : State} (did : Answered c a s t) : TraceGrows s t := by
  cases did with
  | discarded before r after _ owed its oldest outside =>
    rw [lateAnswer_onlyOutside outside]
    exact .refl s
  | taken r u _ none_abandoned own its outside block =>
    obtain ⟨-, -, es, more⟩ := trace_of_taken outside block
    exact ⟨_, more⟩
  | nothingOwed none_abandoned none_own => exact .refl s

theorem Accepted.traceGrows {i : Instr} {s t : State} (how : Accepted i s t) : TraceGrows s t := by
  cases how with
  | frames idle fits => exact .refl s
  | _ => exact ⟨_, rfl⟩

theorem HostDid.traceGrows {act : HostAction} {s t : State} (did : HostDid act s t) : TraceGrows s t := by
  cases did with
  | illegal e is free why => exact ⟨_, rfl⟩
  | accepted i _ is free spelt how => exact how.traceGrows (s := beginAcceptance s)
  | cancelled is =>
    rw [raiseCancel_only]
    exact .refl s
  | _ => exact .refl s

theorem HostDid.params {act : HostAction} {s t : State} (did : HostDid act s t) : t.params = s.params := by
  cases did with
  | accepted i _ is free spelt how => cases how <;> rfl
  | cancelled is => rw [raiseCancel_only]
  | _ => rfl

/-- Settles O55: no agent writes the parameters, and each only adds to the trace. -/
theorem parametersFixedTraceGrows : Obligations.ParametersFixedTraceGrows := by
  intro s t h
  constructor
  · rcases sameRegisters_or_hostDid h with same | ⟨act, rest, turn, did⟩
    · exact same.params
    · exact did.params
  · obtain ⟨s', taken, acted⟩ := acted_of_step h
    have grows : TraceGrows s' t := by
      cases acted with
      | host act rest turn did => exact did.traceGrows
      | sequencer turn did => exact did.traceGrows
      | answer c a turn did => exact did.traceGrows
    rw [taken] at grows
    exact grows

/-! ### `N` -/

/-- An accepted command keeps `N`, unless it is a CONFIGURE, which succeeds (rule R110). -/
theorem Accepted.n {i : Instr} {s t : State} (how : Accepted i s t) :
    t.n = s.n ∨ ∃ n, i = .configure n ∧ s.mode = .unconfigured ∧ 1 ≤ n.toNat ∧ n.toNat ≤ s.params.nMax ∧ t.n = n ∧
      t.mode = .idle ∧ t.status = .ok := by
  cases how with
  | configured n is fresh low high => exact .inr ⟨n, is, fresh, low, high, rfl, rfl, rfl⟩
  | _ => exact .inl rfl

/-- Settles O51: only a turn of the host can change `N`, and of those only a `RESET` and an accepted CONFIGURE do. -/
theorem onlyConfigureWritesLength : Obligations.OnlyConfigureWritesLength := by
  intro s t h changed
  rcases sameRegisters_or_hostDid h with same | ⟨act, rest, turn, did⟩
  · exact absurd same.n changed
  · cases did with
    | wasReset is =>
      subst is
      exact .inl ⟨rest, turn⟩
    | accepted i _ is free spelt how =>
      subst is
      rcases how.n with kept | ⟨n, rfl, written⟩
      · exact absurd kept changed
      · exact .inr ⟨rest, n, turn, written.1, spelt, written.2⟩
    | cancelled is =>
      rw [raiseCancel_only] at changed
      exact absurd rfl changed
    | _ => exact absurd rfl changed

/-! ### `STATUS` and `ERRINFO` -/

/-- A command ended between `s` and `t`: the last event is `DONE`, with the status and the value it carries. -/
def EndedBetween (s t : State) : Prop :=
  ∃ es c, t.trace = s.trace ++ es ++ [.done c] ∧ t.status = completionStatus c ∧ t.errInfo = errInfoAfter s.errInfo c

/-- The status registers of `t` are as in `s`, or a command ended. -/
abbrev StatusKept (s t : State) : Prop := (t.status = s.status ∧ t.errInfo = s.errInfo) ∨ EndedBetween s t

theorem endedBetween_of_endCommand (c : Completion) {s u : State} (trace : TraceGrows s u)
    (errInfo : u.errInfo = s.errInfo) : EndedBetween s (endCommand c u) := by
  obtain ⟨es, more⟩ := trace
  exact ⟨es, c, by rw [endCommand_trace, more], rfl, by rw [endCommand_errInfo, errInfo]⟩

theorem SequencerMoved.statusKept {s t : State} (did : SequencerMoved s t) : StatusKept s t := by
  cases did with
  | cancelled f at_ pending => exact .inr (endedBetween_of_endCommand .cancelled (.refl s) rfl)
  | _ => exact .inl ⟨rfl, rfl⟩

theorem BlockTook.statusKept {a : Answer} {s t : State} (did : BlockTook a s t) : StatusKept s t := by
  cases did with
  | ended f c at_ first => exact .inr (endedBetween_of_endCommand c (.refl s) rfl)
  | endedOk f count at_ first frames last => exact .inr (endedBetween_of_endCommand .ok (.refl s) rfl)
  | _ => exact .inl ⟨rfl, rfl⟩

theorem Answered.statusKept {c : Collaborator} {a : Answer} {s t : State} (did : Answered c a s t) : StatusKept s t := by
  cases did with
  | discarded before r after _ owed its oldest outside =>
    rw [lateAnswer_onlyOutside outside]
    exact .inl ⟨rfl, rfl⟩
  | taken r u _ none_abandoned own its outside block =>
    have kept := block.statusKept
    rw [environmentAnswer_onlyOutside outside] at kept
    refine kept.imp id fun ⟨es, e, trace, ended⟩ => ⟨.answered a :: es, e, ?_, ended⟩
    rw [trace, takeAnswer_trace, List.append_assoc _ [_] es, List.singleton_append]
  | nothingOwed none_abandoned none_own => exact .inl ⟨rfl, rfl⟩

theorem Accepted.statusKept {i : Instr} {s t : State} (how : Accepted i s t) : StatusKept s t := by
  cases how with
  | error c plain notOk => exact .inr (endedBetween_of_endCommand c (.refl s) rfl)
  | frames idle fits => exact .inl ⟨rfl, rfl⟩
  | configured n is fresh low high => exact .inr (endedBetween_of_endCommand .ok (.refl s) rfl)
  | rotated m is => exact .inr (endedBetween_of_endCommand .ok (.refl s) rfl)

theorem HostDid.statusKept {act : HostAction} {s t : State} (did : HostDid act s t) : StatusKept s t ∨ act = .reset := by
  cases did with
  | illegal e is free why =>
    exact .inl (.inr (endedBetween_of_endCommand .illegalCommand (u := beginAcceptance s) (.refl s) rfl))
  | accepted i _ is free spelt how => exact .inl (how.statusKept (s := beginAcceptance s))
  | cancelled is =>
    rw [raiseCancel_only]
    exact .inl (.inl ⟨rfl, rfl⟩)
  | wasReset is => exact .inr is
  | _ => exact .inl (.inl ⟨rfl, rfl⟩)

theorem errInfoAfter_eq_match (old : ErrInfo) (c : Completion) :
    errInfoAfter old c = match c with
      | .transportError e => .transport e
      | .signalError e => .signal e
      | _ => old := by
  cases c <;> rfl

/-- Settles O52: whichever agent takes the step, the status registers stay or a command ends, but for a `RESET`. -/
theorem statusIsWrittenAtDone : Obligations.StatusIsWrittenAtDone := by
  intro s t h changed
  obtain ⟨s', taken, acted⟩ := acted_of_step h
  have kept : StatusKept s' t ∨ ∃ rest, s.schedule = .host .reset :: rest := by
    cases acted with
    | host act rest turn did =>
      rcases did.statusKept with kept | rfl
      · exact .inl kept
      · exact .inr ⟨rest, turn⟩
    | sequencer turn did => exact .inl did.statusKept
    | answer c a turn did => exact .inl did.statusKept
  rw [taken] at kept
  rcases kept with (⟨status, errInfo⟩ | ⟨es, c, trace, status, errInfo⟩) | reset
  · exact (changed.elim (absurd status) (absurd errInfo))
  · exact .inr ⟨es, c, trace, status, errInfo.trans (errInfoAfter_eq_match s.errInfo c)⟩
  · exact .inl reset

/-! ### The first-error latch -/

theorem SequencerMoved.err {s t : State} {c : Completion} (latched : s.err = some c) (did : SequencerMoved s t) :
    t.err = some c := by
  have stays (e : Completion) : latchError s.err e = some c := by rw [latched, latchError]
  cases did with
  | cancelled f at_ pending => exact stays .cancelled
  | cutShort f k half at_ pending => exact stays .cancelled
  | _ => exact latched

theorem errAfterRelease_of_latched {old : Option Completion} {c : Completion} (latched : old = some c) (a : Answer) :
    errAfterRelease old a = some c := by
  subst latched
  cases a <;> rfl

theorem BlockTook.err {a : Answer} {s t : State} {c : Completion} (latched : s.err = some c) (did : BlockTook a s t) :
    t.err = some c := by
  have stays (e : Completion) : latchError s.err e = some c := by rw [latched, latchError]
  have released := errAfterRelease_of_latched latched a
  cases did with
  | assertFailed f e at_ is => exact stays _
  | sendFailed f k half e at_ is => exact stays _
  | ended f e at_ first => exact first.symm.trans released
  | nextFrame f count at_ first frames more => exact first.symm.trans released
  | endedOk f count at_ first frames last => exact first.symm.trans released
  | _ => exact latched

theorem Answered.err {k : Collaborator} {a : Answer} {s t : State} {c : Completion} (latched : s.err = some c)
    (did : Answered k a s t) : t.err = some c := by
  cases did with
  | discarded before r after _ owed its oldest outside =>
    rw [lateAnswer_onlyOutside outside]
    exact latched
  | taken r u _ none_abandoned own its outside block =>
    have latched' : u.err = some c := by
      rw [environmentAnswer_onlyOutside outside]
      exact latched
    exact block.err latched'
  | nothingOwed none_abandoned none_own => exact latched

theorem HostDid.err {act : HostAction} {s t : State} (did : HostDid act s t) :
    t.err = s.err ∨ act = .reset ∨ (act = .start ∧ s.mode ≠ .busy ∧ t.err = none) := by
  cases did with
  | illegal e is free why => exact .inr (.inr ⟨is, free, rfl⟩)
  | accepted i _ is free spelt how =>
    have cleared : t.err = none := by cases how <;> rfl
    exact .inr (.inr ⟨is, free, cleared⟩)
  | cancelled is =>
    rw [raiseCancel_only]
    exact .inl rfl
  | wasReset is => exact .inr (.inl is)
  | _ => exact .inl rfl

/-- Settles O53: the sequencer and the block's taking of an answer keep a latched error; of the host's turns only a
`RESET` and an accepted `START` clear it. -/
theorem firstErrorStays : Obligations.FirstErrorStays := by
  intro s t c h latched
  obtain ⟨s', taken, acted⟩ := acted_of_step h
  have latched' : s'.err = some c := by rw [taken]; exact latched
  have mode : s'.mode = s.mode := by rw [taken]
  cases acted with
  | host act rest turn did =>
    rcases did.err with kept | rfl | ⟨rfl, free, cleared⟩
    · exact .inl (kept.trans latched')
    · exact .inr (.inl ⟨rest, turn⟩)
    · exact .inr (.inr ⟨rest, turn, by rwa [← mode], cleared⟩)
  | sequencer turn did => exact .inl (did.err latched')
  | answer k a turn did => exact .inl (did.err latched')

/-! ### The operands of a running command -/

/-- While BUSY the host can do nothing to the block but raise a cancel, read, and reset (rule R15). -/
theorem HostDid.of_busy {act : HostAction} {s t : State} (busy : s.mode = .busy) (did : HostDid act s t) :
    act = .reset ∨ t = { s with cancelPend := t.cancelPend, portData := t.portData } := by
  cases did with
  | locked busy is => exact .inr rfl
  | cancelled is =>
    rw [raiseCancel, if_pos busy]
    exact .inr rfl
  | read r is => exact .inr rfl
  | wasReset is => exact .inl is
  | wroteW0 v is free => exact absurd busy free
  | wroteW1 v is free => exact absurd busy free
  | wroteW2 v is free => exact absurd busy free
  | wroteBuf a v is free inside => exact absurd busy free
  | illegal e is free why => exact absurd busy free
  | accepted i _ is free spelt how => exact absurd busy free

/-- The command stays in flight, or it ended. -/
abbrev CommandKept (s t : State) : Prop := t.inFlight = s.inFlight ∨ (t.inFlight = none ∧ t.mode = .idle)

theorem commandKept_endCommand (c : Completion) {s u : State} (busy : u.mode = .busy) : CommandKept s (endCommand c u) :=
  .inr ⟨rfl, by rw [endCommand_mode, busy]; rfl⟩

theorem SequencerMoved.commandKept {s t : State} (busy : s.mode = .busy) (did : SequencerMoved s t) : CommandKept s t := by
  cases did with
  | cancelled f at_ pending => exact commandKept_endCommand _ (u := { s with err := _ }) busy
  | _ => exact .inl rfl

theorem BlockTook.commandKept {a : Answer} {s t : State} (busy : s.mode = .busy) (did : BlockTook a s t) :
    CommandKept s t := by
  cases did with
  | ended f c at_ first => exact commandKept_endCommand c (u := { s with selState := _, err := _ }) busy
  | endedOk f count at_ first frames last =>
    exact commandKept_endCommand .ok (u := { s with selState := _, err := _ }) busy
  | _ => exact .inl rfl

theorem Answered.commandKept {c : Collaborator} {a : Answer} {s t : State} (busy : s.mode = .busy)
    (did : Answered c a s t) : CommandKept s t := by
  cases did with
  | discarded before r after _ owed its oldest outside =>
    rw [lateAnswer_onlyOutside outside]
    exact .inl rfl
  | taken r u _ none_abandoned own its outside block =>
    have kept := block.commandKept (by rw [environmentAnswer_onlyOutside outside]; exact busy)
    rw [environmentAnswer_onlyOutside outside] at kept
    exact kept
  | nothingOwed none_abandoned none_own => exact .inl rfl

/-- Settles O54: the port is locked while BUSY, and only the end of the command takes it out of flight. -/
theorem operandsLockedWhileBusy : Obligations.OperandsLockedWhileBusy := by
  intro s t h busy no_reset
  obtain ⟨s', taken, acted⟩ := acted_of_step h
  have busy' : s'.mode = .busy := by rw [taken]; exact busy
  have kept : SameRegisters s' t ∧ CommandKept s' t := by
    cases acted with
    | host act rest turn did =>
      rcases did.of_busy busy' with rfl | same
      · exact absurd turn (no_reset rest)
      · rw [same]
        exact ⟨⟨rfl, rfl, rfl, rfl, rfl, rfl, rfl⟩, .inl rfl⟩
    | sequencer turn did => exact ⟨did.sameRegisters, did.commandKept busy'⟩
    | answer c a turn did => exact ⟨did.sameRegisters, did.commandKept busy'⟩
  rw [taken] at kept
  obtain ⟨same, command⟩ := kept
  exact ⟨same.w0, same.w1, same.w2, same.buf, same.n, same.res, command⟩

/-! ### The outstanding request -/

theorem ControlInv.not_enabled_of_outstanding {s : State} {r : Request} (h : ControlInv s)
    (own : s.outstanding = some r) : sequencerEnabled s = false := by
  rcases h.seq_of_outstanding own with ⟨f, at_, -⟩ | ⟨f, t, half, b, at_, -⟩ | ⟨f, at_, -⟩ <;>
    rw [sequencerEnabled, at_]

theorem SequencerMoved.eq_of_not_enabled {s t : State} (waits : sequencerEnabled s = false) (did : SequencerMoved s t) :
    t = s := by
  have enabled {q : Seq} (at_ : s.seq = q) : sequencerEnabled { s with seq := q } = false := at_ ▸ waits
  cases did with
  | rests idle => rfl
  | cancelled f at_ pending => cases enabled at_
  | asserts f at_ go => cases enabled at_
  | cutShort f k half at_ pending => cases enabled at_
  | sends f k half b at_ go is => cases enabled at_
  | releases f at_ => cases enabled at_

/-- Settles O56: the sequencer waits, the host only reads, cancels or resets, and of the answers only the one of the
request's own collaborator reaches the block. -/
theorem oneRequestAtATime : Obligations.OneRequestAtATime := by
  intro s t r inv h own
  have waits := ((inv_iff s).1 inv).2.1.not_enabled_of_outstanding own
  have busy := (((inv_iff s).1 inv).2.1.running_of_outstanding own).busy
  constructor
  · intro rest turn
    rw [step_turn turn] at h
    exact (sequencerStep_cases h).eq_of_not_enabled waits
  obtain ⟨s', taken, acted⟩ := acted_of_step h
  have waits' : sequencerEnabled s' = false := by rw [taken]; exact waits
  have busy' : s'.mode = .busy := by rw [taken]; exact busy
  have own' : s'.outstanding = some r := by rw [taken]; exact own
  have same : s'.seq = s.seq ∧ s'.trace = s.trace ∧ s'.abandoned = s.abandoned := by
    rw [taken]
    exact ⟨rfl, rfl, rfl⟩
  obtain ⟨seq, trace, abandoned⟩ := same
  rw [← seq, ← trace, ← abandoned]
  cases acted with
  | host act rest turn did =>
    rcases did.of_busy busy' with rfl | same
    · exact .inr (.inl ⟨rest, turn⟩)
    · rw [same]
      exact .inl ⟨own', rfl, rfl⟩
  | sequencer turn did =>
    rw [did.eq_of_not_enabled waits']
    exact .inl ⟨own', rfl, rfl⟩
  | answer c a turn did =>
    cases did with
    | discarded before q after _ owed its oldest outside =>
      rw [lateAnswer_onlyOutside outside]
      exact .inl ⟨own', rfl, rfl⟩
    | taken q u _ none_abandoned own'' its outside block =>
      cases own'.symm.trans own''
      subst its
      obtain ⟨none_left, still_owed, es, answered⟩ := trace_of_taken outside block
      exact .inr (.inr ⟨turn.imp id fun ⟨rest, turn⟩ => ⟨a, rest, turn⟩, none_left, still_owed, a, es, answered⟩)
    | nothingOwed none_abandoned none_own => exact .inl ⟨own', rfl, rfl⟩

end Sys2Proof.Machine
end

section
/-! What a chip makes of the pair it latches, cell by cell, and what the deassert does to a complete frame and to any other
(rules R56, R58 to R60). Then the obligations on the pairs and on the latch. -/

namespace Sys2Proof

/-- The names of rule R80: a code from 1 to 0x0C, or 0x0F, names a register that stores. -/
theorem Register.ofCode_ne_none_of_range {reg : Byte} (named : 1 ≤ reg.toNat ∧ reg.toNat ≤ 0x0C ∨ reg = 0x0F) :
    Register.ofCode reg ≠ none ∧ reg ≠ 0 := by
  revert reg
  decide

end Sys2Proof

namespace Sys2Proof.Machine

/-! ### The pairs at a chip -/

/-- The platform promises that the no-op pair with this data byte changes nothing (rule R60, log entry 8). -/
abbrev NoopHarmless (promise : NoopPromise) (data : Byte) : Prop :=
  promise = .anyData ∨ (promise = .zeroData ∧ data = 0)

theorem exec_pairNoop_harmless {s : State} {data : Byte} (harmless : NoopHarmless s.params.noop data) :
    exec (.pairNoop data) s = .next s := by
  rcases harmless with promise | ⟨promise, rfl⟩
  · simp only [exec, execPairNoop, promise]
  · simp only [exec, execPairNoop, promise]
    rfl

theorem exec_pairNoop_forgets {s : State} {data : Byte} (unpromised : ¬ NoopHarmless s.params.noop data) :
    exec (.pairNoop data) s = .next (forgetChip s.chain.latchPos s) := by
  cases promise : s.params.noop with
  | anyData => exact absurd (.inl promise) unpromised
  | nothing => simp only [exec, execPairNoop, promise]
  | zeroData =>
    simp only [exec, execPairNoop, promise]
    exact if_neg fun zero => unpromised (.inr ⟨promise, zero⟩)

theorem not_noopHarmless_iff (promise : NoopPromise) (data : Byte) :
    ¬ NoopHarmless promise data ↔ promise = .nothing ∨ (promise = .zeroData ∧ data ≠ 0) := by
  cases promise <;> simp [NoopHarmless]

theorem chipCell_latchCell (s : State) (code v : Byte) (p : Nat) (c : Byte) :
    chipCell (latchCell code v s) p c = if p = s.chain.latchPos ∧ c = code then some v else chipCell s p c := by
  split
  · rename_i same
    rw [same.1, same.2]
    exact chipCell_writeChipCell_same s s.chain.latchPos code v
  · exact chipCell_writeChipCell_other s v ‹_›

/-- The registers of a chip that take a byte (rule R58): all but the no-op's. -/
def storingRegisters : List Register :=
  [.row0, .row1, .row2, .row3, .row4, .row5, .row6, .row7, .decodeMode, .intensity, .scanLimit, .onOff, .displayTest]

/-- Settles O20: the thirteen pairs are those of the storing registers, each of which writes one cell. -/
theorem storingPairsWriteOneCell : Obligations.StoringPairsWriteOneCell := by
  intro s data i code listed
  have stores : ∀ r ∈ storingRegisters, r ≠ .noop := by decide
  have listed' : (i, code) ∈ storingRegisters.map (fun r => (pairInstr r data, r.code)) := listed
  obtain ⟨r, storing, same⟩ := List.mem_map.1 listed'
  cases same
  refine ⟨_, exec_pairInstr_stores (stores r storing) data s, rfl, ?_, fun p c other => ?_⟩
  · rw [chipCell_latchCell, if_pos ⟨rfl, rfl⟩]
  · rw [chipCell_latchCell, if_neg other]

/-- Settles O21: the no-op pair goes by the platform's promise. -/
theorem noopPairIsHarmlessOnlyAsPromised : Obligations.NoopPairIsHarmlessOnlyAsPromised := by
  intro s data
  refine ⟨exec_pairNoop_harmless, fun unpromised => ?_⟩
  have forgets := exec_pairNoop_forgets ((not_noopHarmless_iff _ _).2 unpromised)
  exact ⟨_, forgets, rfl, chipCell_forgetChip s s.chain.latchPos⟩

/-! ### One chip latches -/

/-- What register `code` of a chip holds after the chip latched the pair `(reg, data)`, where it held `old` (rules R58,
R60). -/
def cellAfterLatch (promise : NoopPromise) (reg data code : Byte) (old : Option Byte) : Option Byte :=
  if Register.ofCode reg = none then none
  else if reg = 0 then if NoopHarmless promise data then old else none
  else if code = reg then some data
  else old

theorem cellAfterLatch_of_stores (promise : NoopPromise) {reg : Byte} (named : Register.ofCode reg ≠ none)
    (nonzero : reg ≠ 0) (data code : Byte) (old : Option Byte) :
    cellAfterLatch promise reg data code old = if code = reg then some data else old := by
  rw [cellAfterLatch, if_neg named, if_neg nonzero]

theorem cellAfterLatch_of_harmless {promise : NoopPromise} {data : Byte} (harmless : NoopHarmless promise data)
    (code : Byte) (old : Option Byte) : cellAfterLatch promise 0 data code old = old := by
  rw [cellAfterLatch, if_neg (by decide), if_pos rfl, if_pos harmless]

/-- The chip's cells after its latch are as `cellAfterLatch` says. -/
theorem chipCell_latchChip {s t : State} {p : Nat} {reg data : Byte} (holds : chipPair s p = some (packPair reg data))
    (latched : latchChip p s = .next t) (code : Byte) :
    chipCell t p code = cellAfterLatch s.params.noop reg data code (chipCell s p code) := by
  simp only [latchChip, holds, decodePair, pairReg_packPair, pairData_packPair] at latched
  unfold cellAfterLatch
  cases named : Register.ofCode reg with
  | none =>
    rw [named] at latched
    cases latched
    rw [chipCell_forgetChip, if_pos rfl, if_pos rfl]
  | some r =>
    rw [named] at latched
    have coded := Register.code_of_ofCode named
    rw [if_neg (by simp)]
    by_cases noop : r = .noop
    · subst noop
      obtain rfl : reg = 0 := coded.symm
      rw [if_pos rfl]
      split
      · cases latched.symm.trans (exec_pairNoop_harmless (s := selectChip p s) ‹_›)
        rfl
      · cases latched.symm.trans (exec_pairNoop_forgets (s := selectChip p s) ‹_›)
        rw [chipCell_forgetChip]
        exact if_pos rfl
    · have nonzero : reg ≠ 0 := by
        rintro rfl
        exact noop (Option.some.inj (named.symm.trans (by decide)))
      cases latched.symm.trans (exec_pairInstr_stores noop data (selectChip p s))
      rw [if_neg nonzero, chipCell_latchCell, coded]
      simp [chipCell]

/-! ### The deassert -/

theorem frameComplete_iff (s : State) :
    frameComplete s = true ↔ s.chain.frameOpen = true ∧ s.chain.bad = false ∧ s.chain.cnt = 2 * chainLength s := by
  simp [frameComplete, and_assoc]

theorem environmentAnswer_deassert_complete {s : State} (complete : frameComplete s = true) :
    environmentAnswer (.sel .deassert) .ok s =
      latchChips (List.range (chainLength s)) (closeFrame (driveLine .deassert .ok s)) :=
  if_pos complete

theorem environmentAnswer_deassert_incomplete {s : State} (incomplete : frameComplete s ≠ true) :
    environmentAnswer (.sel .deassert) .ok s = .next (forgetChain (closeFrame (driveLine .deassert .ok s))) :=
  if_neg incomplete

/-- A pair is known where both its bytes are (rule R58). -/
theorem chipPair_eq_some {s : State} {p : Nat} {reg data : Byte} (register : s.chain.sr[2 * p + 1]? = some reg)
    (low : s.chain.sr[2 * p]? = some data) : chipPair s p = some (packPair reg data) := by
  rw [chipPair, register, low]

/-- All chips latch a complete frame at once: every chip's cells are as `cellAfterLatch` says of the pair it holds, and
nothing else changes but the frame being closed. -/
theorem deassert_complete {s : State} (complete : frameComplete s = true) :
    ∃ t, environmentAnswer (.sel .deassert) .ok s = .next t ∧
      onlyCells (closeFrame (driveLine .deassert .ok s)) t ∧
      (∀ p code, chainLength s ≤ p → chipCell t p code = chipCell s p code) ∧
      ∀ p reg data, p < chainLength s → s.chain.sr[2 * p + 1]? = some reg → s.chain.sr[2 * p]? = some data →
        ∀ code, chipCell t p code = cellAfterLatch s.params.noop reg data code (chipCell s p code) := by
  obtain ⟨t, latched, cells, -, others, each⟩ :=
    latchChips_next (List.range (chainLength s)) (closeFrame (driveLine .deassert .ok s)) List.nodup_range
  refine ⟨t, (environmentAnswer_deassert_complete complete).trans latched, cells, fun p code beyond => ?_,
    fun p reg data inside register low code => ?_⟩
  · exact others p code (by simpa using beyond)
  · obtain ⟨u, v, before, held, latches, after⟩ := each p (List.mem_range.2 inside)
    have holds : chipPair u p = some (packPair reg data) := by
      rw [before]
      exact chipPair_eq_some register low
    rw [after, chipCell_latchChip holds latches, held, before]
    rfl

/-- Settles O35: every chip's cells by the pair it holds, in the three cases of rule R58. -/
theorem completeFrameLatches : Obligations.CompleteFrameLatches := by
  intro s opened good count
  obtain ⟨t, answered, cells, others, each⟩ := deassert_complete ((frameComplete_iff s).2 ⟨opened, good, count⟩)
  refine ⟨t, answered, cells, others, fun p reg data inside register low => ⟨fun named code => ?_,
    fun zero harmless code => ?_, fun spoils code => ?_⟩⟩
  · obtain ⟨named', nonzero⟩ := Register.ofCode_ne_none_of_range named
    rw [each p reg data inside register low, cellAfterLatch_of_stores _ named' nonzero]
  · subst zero
    rw [each p 0 data inside register low, cellAfterLatch_of_harmless harmless]
  · rw [each p reg data inside register low, cellAfterLatch]
    rcases spoils with ⟨rfl, unpromised⟩ | unnamed
    · rw [if_neg (by decide), if_pos rfl, if_neg ((not_noopHarmless_iff _ _).2 unpromised)]
    · rw [if_pos ((Register.ofCode_eq_none_iff reg).2 unnamed)]

/-- An answer turn of a collaborator that owes an answer to an abandoned request. -/
theorem step_lateAnswer {s : State} {c : Collaborator} {a : Answer} {rest : List Turn} {r : Request}
    {before after : List Request} (turn : s.schedule = .answer c a :: rest) (owed : s.abandoned = before ++ r :: after)
    (its : requestedOf r = c) (oldest : ∀ q ∈ before, requestedOf q ≠ c) :
    step s = lateAnswer r a { s with schedule := rest, abandoned := before ++ after } :=
  (step_turn turn).trans (answerStep_abandoned (s := { s with schedule := rest }) a owed its oldest)

/-- Settles O8: the one chip's latch is the run of its pair. -/
theorem latchRunsDecodedPair : Obligations.LatchRunsDecodedPair := by
  intro s rest others reg data i turn owed wired opened good count held decoded
  let late : State := { s with schedule := rest, abandoned := others }
  have length : chainLength late = 1 := by simp [chainLength, late, wired]
  have complete : frameComplete late = true := (frameComplete_iff late).2 ⟨opened, good, by rw [length]; exact count⟩
  let closed := closeFrame (driveLine .deassert .ok late)
  have holds : chipPair closed 0 = some (packPair reg data) :=
    chipPair_eq_some (by simp [closed, late, held]) (by simp [closed, late, held])
  have latches : latchChip 0 closed = exec i (selectChip 0 closed) := by
    simp only [latchChip, holds, decoded]
  have alone (r : Result) : andThen r (latchChips []) = r := by cases r <;> rfl
  rw [step_lateAnswer (before := []) turn owed rfl (by simp), lateAnswer_sel]
  change environmentAnswer (.sel .deassert) .ok late = _
  rw [environmentAnswer_deassert_complete complete, length]
  change andThen (latchChip 0 closed) (latchChips []) = _
  rw [alone, latches]
  rfl

/-- Settles O34: each row of rule R56 but the latch's. -/
theorem chainSteps : Obligations.ChainSteps := by
  intro s b e
  refine ⟨rfl, rfl, fun opened => ⟨?_, ?_⟩, rfl, fun opened why => ?_⟩
  · exact congrArg Host.Outcome.next (chainTxOk_of_frameOpen opened b)
  · exact congrArg Host.Outcome.next (if_pos opened)
  · have incomplete : frameComplete s ≠ true := fun complete => by
      obtain ⟨-, good, count⟩ := (frameComplete_iff s).1 complete
      rcases why with bad | other
      · simp [good] at bad
      · exact other count
    rw [environmentAnswer_deassert_incomplete incomplete]
    rfl

/-! ### When the chips' registers change -/

/-- After an answered deassert a register is known only where the answer is `ok` and the frame was complete. -/
theorem known_after_deassert {s t : State} {a : Answer} {p : Nat} {code v : Byte}
    (answered : environmentAnswer (.sel .deassert) a s = .next t) (known : chipCell t p code = some v) :
    t.line = some .deassert ∧ frameComplete s = true := by
  cases a with
  | err e =>
    cases answered
    simp [chainDeassertErr, chipCell] at known
  | ok =>
    refine ⟨line_of_deassertOk answered, Classical.not_not.1 fun incomplete => ?_⟩
    rw [environmentAnswer_deassert_incomplete incomplete] at answered
    cases answered
    rw [chipCell_forgetChain] at known
    cases known

theorem BlockTook.line {a : Answer} {s t : State} (did : BlockTook a s t) : t.line = s.line := by
  cases did <;> rfl

/-- Settles O48: the sequencer and the host leave the chips, and of the answers only a deassert's changes registers. -/
theorem chipsChangeOnlyAtRelease : Obligations.ChipsChangeOnlyAtRelease := by
  intro s t h changed
  obtain ⟨s', taken, acted⟩ := acted_of_step h
  have same : s'.chain = s.chain ∧ s'.abandoned = s.abandoned ∧ s'.outstanding = s.outstanding ∧ s'.trace = s.trace ∧
      chainLength s' = chainLength s := by
    rw [taken]
    exact ⟨rfl, rfl, rfl, rfl, rfl⟩
  obtain ⟨chain, abandoned, outstanding, trace, length⟩ := same
  rw [← chain] at changed
  rw [← abandoned, ← outstanding, ← trace, ← chain, ← length]
  cases acted with
  | host act rest turn did =>
    cases did with
    | accepted i _ is free spelt how => cases how <;> exact absurd rfl changed
    | cancelled is =>
      rw [raiseCancel_only] at changed
      exact absurd rfl changed
    | _ => exact absurd rfl changed
  | sequencer turn did => exact absurd (congrArg Chain.creg did.sameOutside.1) changed
  | answer c a turn did =>
    cases did with
    | discarded before r after _ owed its oldest outside =>
      obtain ⟨t', late, only, -, -, creg⟩ := lateAnswer_next r a { s' with abandoned := before ++ after }
      cases outside.symm.trans late
      obtain rfl : r = .sel .deassert := Classical.not_not.1 fun other => changed (creg other)
      subst its
      refine ⟨turn.imp id fun ⟨rest, turn⟩ => ⟨a, rest, turn⟩, .inl ⟨before, after, owed, ?_, oldest, ?_⟩, ?_⟩
      · rw [only]
      · rw [only]
        exact ⟨rfl, rfl⟩
      · intro p code v known _
        obtain ⟨line, complete⟩ := known_after_deassert outside known
        exact ⟨line, (frameComplete_iff _).1 complete⟩
    | taken r u _ none_abandoned own its outside block =>
      obtain ⟨u', answered, only, -, -, creg⟩ := environmentAnswer_next r a (takeAnswer a s')
      cases outside.symm.trans answered
      have chain' := block.sameOutside.1
      obtain rfl : r = .sel .deassert := Classical.not_not.1 fun other => changed (by rw [chain', creg other]; rfl)
      subst its
      obtain ⟨none_left, still_owed, es, more⟩ := trace_of_taken outside block
      refine ⟨turn.imp id fun ⟨rest, turn⟩ => ⟨a, rest, turn⟩, .inr ⟨own, none_left, still_owed, a, es, more⟩, ?_⟩
      intro p code v known _
      have known' : chipCell u p code = some v := by rwa [chipCell, ← chain']
      obtain ⟨line, complete⟩ := known_after_deassert outside known'
      exact ⟨block.line.trans line, (frameComplete_iff _).1 complete⟩
    | nothingOwed none_abandoned none_own => exact absurd rfl changed

end Sys2Proof.Machine
end

section
/-! What a `RESET` while BUSY abandons, and what its answer does later (rules R191, R203). Then the obligations. -/

namespace Sys2Proof.Machine

/-- Settles O57: the abandoned request's answer acts on the line and the chips alone. -/
theorem abandonedAnswersAreDiscarded : Obligations.AbandonedAnswersAreDiscarded := by
  intro s c a rest r before after turn owed its oldest
  obtain ⟨t, late, only, -⟩ := lateAnswer_next r a { s with schedule := rest, abandoned := before ++ after }
  exact ⟨t, (step_lateAnswer turn owed its oldest).trans late, only⟩

theorem chainLength_resetBlock_of_configured {s : State} (configured : s.mode ≠ .unconfigured) :
    chainLength (resetBlock s) = chainLength s := by
  simp [chainLength, configured]

/-- Settles O58: the fields of `resetBlock`; the chain's length is kept as a number. -/
theorem resetWhileBusyLeavesTheLine : Obligations.ResetWhileBusyLeavesTheLine := by
  intro s rest turn busy
  exact ⟨_, step_reset turn, rfl, rfl, rfl, rfl, rfl, rfl,
    chainLength_resetBlock_of_configured (s := { s with schedule := rest }) (by simp [busy])⟩

/-- A byte older than the open frame moves the shift registers at most (rule R203). -/
theorem lateAnswer_stale {s : State} (b : Byte) (a : Answer) (stale : s.chain.stale ≠ 0) :
    ∃ sr, lateAnswer (.tx b) a s =
      .next { s with chain := { s.chain with sr := sr, stale := s.chain.stale - 1 } } := by
  rw [lateAnswer, if_neg stale]
  cases a <;> exact ⟨_, rfl⟩

/-- Once a frame's own 2·N bytes are shifted in it is complete and the chips hold its pairs, whatever the shift registers
held before (rules R56, R57). -/
theorem ownFrame_fills {s : State} {pairs : List (Byte × Byte)} (opened : s.chain.frameOpen = true)
    (good : s.chain.bad = false) (none_counted : s.chain.cnt = 0) (full : pairs.length = chainLength s) :
    let u := (pairsBytes pairs).foldl (fun u b => chainTxOk b u) s
    u.chain.creg = s.chain.creg ∧ frameComplete u = true ∧
      ∀ p, p < chainLength s → ∃ q, pairs[chainLength s - 1 - p]? = some q ∧
        u.chain.sr[2 * p + 1]? = some q.1 ∧ u.chain.sr[2 * p]? = some q.2 := by
  intro u
  obtain ⟨sr, sent, -⟩ := foldl_chainTxOk_of_frameOpen opened (pairsBytes pairs)
  refine ⟨congrArg (·.chain.creg) sent, ?_, fun p inside => chipHolds_of_pairsSent opened full inside⟩
  refine (congrArg frameComplete sent).trans ((frameComplete_iff _).2 ⟨opened, good, ?_⟩)
  change s.chain.cnt + (pairsBytes pairs).length = 2 * chainLength s
  rw [none_counted, length_pairsBytes, full, Nat.zero_add]

/-- Settles O59: the late byte leaves the frame as it was opened, so the frame's own bytes fill it. -/
theorem lateByteDoesNotSpoilTheNextFrame : Obligations.LateByteDoesNotSpoilTheNextFrame := by
  intro s a b rest before after pairs turn owed oldest stale opened good count full
  obtain ⟨sr, late⟩ := lateAnswer_stale (s := { s with schedule := rest, abandoned := before ++ after }) b a stale
  exact ⟨_, (step_lateAnswer turn owed rfl oldest).trans late, rfl,
    ownFrame_fills (s := { s with
      schedule := rest, abandoned := before ++ after, chain := { s.chain with sr := sr, stale := s.chain.stale - 1 } })
      opened good count full⟩

/-- Settles O60: a byte of the open frame is answered as any byte is. -/
theorem abandonedByteOfTheOpenFrameCounts : Obligations.AbandonedByteOfTheOpenFrameCounts := by
  intro s a b rest before after turn owed oldest none_stale opened
  rw [step_lateAnswer turn owed rfl oldest, lateAnswer, if_pos none_stale]
  cases a with
  | ok => exact congrArg Host.Outcome.next (if_pos opened)
  | err e => exact congrArg Host.Outcome.next (if_pos opened)

end Sys2Proof.Machine
end

section
/-! A command in which nothing fails, frame by frame: what it leaves of the block, and of the chips' cells on a chain of the
right and of a wrong length (rules R57, R58, R100 to R105, R205). Then the obligations on the commands' effects. -/

namespace Sys2Proof.Machine

/-! ### The chips after one frame -/

theorem chainLength_chipsBeforeRelease (s : State) (pairs : List (Byte × Byte)) :
    chainLength (chipsBeforeRelease s pairs) = chainLength s := by
  obtain ⟨sr, sent, -⟩ := foldl_chainTxOk_of_frameOpen (s := chainAssertOk s) rfl (pairsBytes pairs)
  exact (congrArg chainLength sent : chainLength (chipsBeforeRelease s pairs) = _)

theorem chainLength_after_frame {s u : State} {pairs : List (Byte × Byte)}
    (released : environmentAnswer (.sel .deassert) .ok (chipsBeforeRelease s pairs) = .next u) :
    chainLength u = chainLength s := by
  obtain ⟨v, answered, only, chips, -⟩ := environmentAnswer_next (.sel .deassert) .ok (chipsBeforeRelease s pairs)
  cases released.symm.trans answered
  rw [← chainLength_chipsBeforeRelease s pairs, chainLength, chips, only, chainLength]

/-- A whole frame on a chain of the right length: every chip latches the pair of its slot. -/
theorem cells_after_whole_frame {s u : State} {pairs : List (Byte × Byte)} (full : pairs.length = chainLength s)
    (released : environmentAnswer (.sel .deassert) .ok (chipsBeforeRelease s pairs) = .next u) :
    (∀ p code, chainLength s ≤ p → chipCell u p code = chipCell s p code) ∧
    ∀ p, p < chainLength s → ∃ q, pairs[chainLength s - 1 - p]? = some q ∧
      ∀ code, chipCell u p code = cellAfterLatch s.params.noop q.1 q.2 code (chipCell s p code) := by
  obtain ⟨creg, complete, holds⟩ := ownFrame_fills (s := chainAssertOk s) rfl rfl rfl full
  obtain ⟨v, answered, -, others, each⟩ := deassert_complete complete
  cases released.symm.trans answered
  have length := chainLength_chipsBeforeRelease s pairs
  have params : (chipsBeforeRelease s pairs).params = s.params := foldl_chainTxOk_params (pairsBytes pairs) (chainAssertOk s)
  have before (p : Nat) (code : Byte) : chipCell (chipsBeforeRelease s pairs) p code = chipCell s p code :=
    congrArg (Memory.read · (cellAddress p code)) creg
  refine ⟨fun p code beyond => ?_, fun p inside => ?_⟩
  · exact (others p code (by rw [← length] at beyond; exact beyond)).trans (before p code)
  · obtain ⟨q, slot, register, low⟩ := holds p inside
    refine ⟨q, slot, fun code => ?_⟩
    rw [← before p code, ← params]
    exact each p q.1 q.2 (by rw [← length] at inside; exact inside) register low code

/-- A whole frame on a chain of another length leaves every register indeterminate (rule R205). -/
theorem cells_after_misfit_frame {s u : State} {pairs : List (Byte × Byte)} (misfit : pairs.length ≠ chainLength s)
    (released : environmentAnswer (.sel .deassert) .ok (chipsBeforeRelease s pairs) = .next u) (p : Nat) (code : Byte) :
    chipCell u p code = none := by
  cases known : chipCell u p code with
  | none => rfl
  | some v =>
    obtain ⟨sr, sent, -⟩ := foldl_chainTxOk_of_frameOpen (s := chainAssertOk s) rfl (pairsBytes pairs)
    obtain ⟨-, complete⟩ := known_after_deassert released known
    obtain ⟨-, -, count⟩ := (frameComplete_iff _).1 complete
    have counted : (chipsBeforeRelease s pairs).chain.cnt = 2 * pairs.length := by
      rw [← length_pairsBytes]
      exact (congrArg (·.chain.cnt) sent).trans (Nat.zero_add _)
    rw [chainLength_chipsBeforeRelease, counted] at count
    omega

/-! ### All frames -/

/-- What a command that succeeded leaves of the block: the events it adds, the end with OK, and the registers it did not
touch. -/
structure Succeeded (s t : State) (events : List Event) (rest : List Turn) : Prop where
  trace : t.trace = s.trace ++ events
  status : t.status = .ok
  mode : t.mode = .idle
  seq : t.seq = .idle
  selState : t.selState = .deasserted
  line : t.line = some .deassert
  schedule : t.schedule = rest
  registers : SameRegisters s t
  errInfo : t.errInfo = s.errInfo

/-- From frame `f` on, all frames are sent and the command ends with OK; and what holds of the chips, where each frame leads
it on, holds at the end. -/
theorem run_frames {i : Instr} {count : Nat} {rest : List Turn} {n : Byte} {p : Params} {length : Nat}
    (fits : commandFits n i) (holds : Nat → Chain → Prop)
    (leads : ∀ f s u, f < count → s.n = n → s.params = p → chainLength s = length → holds f s.chain →
      environmentAnswer (.sel .deassert) .ok (chipsBeforeRelease s (framePairs p n.toNat i f)) = .next u →
      holds (f + 1) u.chain)
    {k f : Nat} {s : State} (left : f + (k + 1) = count) (start : AboutToAssert s i count f rest) (hn : s.n = n)
    (hp : s.params = p) (hlength : chainLength s = length) (now : holds f s.chain) :
    ∃ t, run (2 * requestCount (k + 1) n.toNat) s = .next t ∧
      Succeeded s t ((List.range' f (k + 1)).flatMap (fun f => frameEvents (framePairs p n.toNat i f)) ++ [.done .ok]) rest ∧
      holds count t.chain := by
  induction k generalizing f s with
  | zero =>
    subst hn hp
    obtain ⟨t, u, ran, released, chain, line, selState, ⟨n, w0, w1, w2, buf, res, errInfo, params⟩, schedule, ends⟩ :=
      sendFrame start fits
    have next := leads f s u start.inside rfl rfl hlength now released
    rw [left] at next
    rcases ends with ⟨more, -⟩ | ⟨-, trace, status, mode, seq⟩
    · omega
    · refine ⟨t, by rw [requestCount, Nat.zero_add, Nat.one_mul]; exact ran, ⟨?_, status, mode, seq, selState, line, ?_,
        ⟨w0, w1, w2, buf, n, res, params⟩, errInfo⟩, by rw [chain]; exact next⟩
      · simpa using trace
      · rw [schedule, show count - (f + 1) = 0 by omega]
        rfl
  | succ k ih =>
    subst hn hp
    obtain ⟨t, u, ran, released, chain, line, selState, ⟨n, w0, w1, w2, buf, res, errInfo, params⟩, schedule, ends⟩ :=
      sendFrame start fits
    have next := leads f s u start.inside rfl rfl hlength now released
    rcases ends with ⟨-, trace, start'⟩ | ⟨last, -⟩
    · have length' : chainLength t = length := by
        have un : u.n = s.n := by
          rw [environmentAnswer_onlyOutside released]
          exact foldl_chainTxOk_n (pairsBytes (framePairs s.params s.n.toNat i f)) (chainAssertOk s)
        rw [chainLength, chain, n, ← un, ← hlength, ← chainLength_after_frame released, chainLength]
      obtain ⟨v, ran', done, last⟩ := ih (s := t) (by omega) start' n params length' (by rw [chain]; exact next)
      have same : SameRegisters s t := ⟨w0, w1, w2, buf, n, res, params⟩
      refine ⟨v, ?_, ⟨?_, done.status, done.mode, done.seq, done.selState, done.line, done.schedule,
        same.trans done.registers, done.errInfo.trans errInfo⟩, last⟩
      · have steps : 2 * requestCount (k + 1 + 1) s.n.toNat =
            2 * (2 * s.n.toNat + 2) + 2 * requestCount (k + 1) s.n.toNat := by
          simp only [requestCount]
          ring
        rw [steps, run_add _ ran]
        exact ran'
      · have first : List.range' f (k + 1 + 1) = f :: List.range' (f + 1) (k + 1) := List.range'_succ
        rw [done.trace, trace, first, List.flatMap_cons]
        simp only [List.append_assoc]
    · omega

theorem ReadyToSend.aboutToAssert {s : State} {i : Instr} {count : Nat} {rest : List Turn}
    (h : ReadyToSend s i count rest) : AboutToAssert s i count 0 rest := by
  have control := ((inv_iff s).1 h.inv).2.1
  have busy : s.mode = .busy := (control.running (by simp [h.position])).busy
  have no_error := h.inv.no_error_in_frame
  have no_request := h.inv.outstanding_matches
  rw [noErrorInFrame, h.position] at no_error
  rw [outstandingMatches, h.position] at no_request
  exact ⟨(h.inv.length_in_range (by simp [busy])).1, h.position, h.command, h.frames, frameCount_pos h.frames,
    h.not_cancelled, h.none_abandoned, no_request, no_error, busy, h.turns⟩

/-- The whole command, from the first frame. -/
theorem run_command {s : State} {i : Instr} {count : Nat} {rest : List Turn} (ready : ReadyToSend s i count rest)
    (holds : Nat → Chain → Prop) (now : holds 0 s.chain)
    (leads : ∀ f s' u, f < count → s'.n = s.n → s'.params = s.params → chainLength s' = chainLength s → holds f s'.chain →
      environmentAnswer (.sel .deassert) .ok (chipsBeforeRelease s' (framePairs s.params s.n.toNat i f)) = .next u →
      holds (f + 1) u.chain) :
    ∃ t, run (2 * requestCount count s.n.toNat) s = .next t ∧
      Succeeded s t (commandEvents s.params s.n.toNat i count) rest ∧ holds count t.chain := by
  have positive := frameCount_pos ready.frames
  obtain ⟨k, rfl⟩ : ∃ k, count = k + 1 := ⟨count - 1, by omega⟩
  have fits := ready.inv.in_flight_fits i ready.command
  obtain ⟨t, ran, done, last⟩ := run_frames fits holds leads (Nat.zero_add _) ready.aboutToAssert rfl rfl rfl now
  rw [← List.range_eq_range'] at done
  exact ⟨t, ran, done, last⟩

/-- Settles O41: all frames in order, whatever becomes of the chips. -/
theorem successfulCommandSendsItsFrames : Obligations.SuccessfulCommandSendsItsFrames := by
  intro s i count rest ready
  obtain ⟨t, ran, done, -⟩ := run_command ready (fun _ _ => True) trivial fun _ _ _ _ _ _ _ _ _ => trivial
  have same := done.registers
  exact ⟨t, ran, done.trace, done.status, done.mode, done.seq, done.selState, done.line, done.schedule, same.n, same.w0,
    same.w1, same.w2, same.buf, same.res, done.errInfo, same.params⟩

/-- Settles O45: no frame of the command fits the chain, and the first already spoils every register. -/
theorem wrongLengthSpoilsTheChips : Obligations.WrongLengthSpoilsTheChips := by
  intro s i count rest ready wrong
  have fits := ready.inv.in_flight_fits i ready.command
  obtain ⟨t, ran, done, spoilt⟩ := run_command ready
    (fun f c => 0 < f → ∀ p code, c.creg.read (cellAddress p code) = none) (fun h => absurd h (Nat.lt_irrefl 0))
    fun f s' u _ _ _ length _ released _ => by
      have misfit : (framePairs s.params s.n.toNat i f).length ≠ chainLength s' := by
        rw [(framePairs_get fits f).1, length]
        exact wrong.symm
      exact cells_after_misfit_frame misfit released
  exact ⟨t, ran, done.status, spoilt (frameCount_pos ready.frames)⟩

/-! ### The chips after a command -/

/-- What a register of a chip holds after `count` frames, where the chip latches `pair f` in frame `f`. -/
def cellAfterFrames (promise : NoopPromise) (pair : Nat → Option (Byte × Byte)) (code : Byte) (old : Option Byte) :
    Nat → Option Byte
  | 0 => old
  | f + 1 =>
    match pair f with
    | some q => cellAfterLatch promise q.1 q.2 code (cellAfterFrames promise pair code old f)
    | none => cellAfterFrames promise pair code old f

theorem cellAfterFrames_succ {promise : NoopPromise} {pair : Nat → Option (Byte × Byte)} {f : Nat} {q : Byte × Byte}
    (latches : pair f = some q) (code : Byte) (old : Option Byte) :
    cellAfterFrames promise pair code old (f + 1) =
      cellAfterLatch promise q.1 q.2 code (cellAfterFrames promise pair code old f) := by
  rw [cellAfterFrames, latches]

/-- The pair the chip at pos `p` latches in frame `f` of a command: that of slot `N - 1 - p` (rule R57). -/
def pairAt (s : State) (i : Instr) (p f : Nat) : Option (Byte × Byte) :=
  framePair (glyphRow s.params) s.n.toNat i f (s.n.toNat - 1 - p)

/-- After a command that succeeded on a chain of the right length, every chip has latched its pair of every
frame. -/
theorem cells_after_command {s : State} {i : Instr} {count : Nat} {rest : List Turn} (ready : ReadyToSend s i count rest)
    (right : chainLength s = s.n.toNat) :
    ∃ t, run (2 * requestCount count s.n.toNat) s = .next t ∧ ∀ p code, chipCell t p code =
      if p < s.n.toNat then cellAfterFrames s.params.noop (pairAt s i p) code (chipCell s p code) count
      else chipCell s p code := by
  have fits := ready.inv.in_flight_fits i ready.command
  let after (f p : Nat) (code : Byte) : Option Byte :=
    if p < s.n.toNat then cellAfterFrames s.params.noop (pairAt s i p) code (chipCell s p code) f else chipCell s p code
  obtain ⟨t, ran, -, cells⟩ := run_command ready (fun f c => ∀ p code, c.creg.read (cellAddress p code) = after f p code)
    (fun p code => (ite_self _).symm) fun f s' u _ _ params length now released p code => by
      obtain ⟨all, slots⟩ := framePairs_get (p := s.params) fits f
      obtain ⟨others, each⟩ := cells_after_whole_frame (s := s') (by rw [all, length, right]) released
      rw [length, right] at others each
      by_cases inside : p < s.n.toNat
      · obtain ⟨q, slot, latched⟩ := each p inside
        have pair : pairAt s i p f = some q := (slots _ (by omega)).trans slot
        refine (latched code).trans ?_
        have before : chipCell s' p code = after f p code := now p code
        simp only [after, if_pos inside] at before ⊢
        rw [cellAfterFrames_succ pair, before, params]
      · refine (others p code (by omega)).trans ((now p code).trans ?_)
        simp only [after, if_neg inside]
  exact ⟨t, ran, cells⟩

/-- Where every frame carries a row's code, row 1 first, and a byte of that row: the rows sent hold their bytes and no
other register changed. -/
theorem cellAfterFrames_rows {promise : NoopPromise} {pair : Nat → Option (Byte × Byte)} {data : Nat → Byte}
    (rows : ∀ f, f < 8 → pair f = some (BitVec.ofNat 8 (f + 1), data f)) (code : Byte) (old : Option Byte) {k : Nat}
    (bound : k ≤ 8) :
    cellAfterFrames promise pair code old k =
      if 1 ≤ code.toNat ∧ code.toNat ≤ k then some (data (code.toNat - 1)) else old := by
  induction k with
  | zero => exact (if_neg (by omega)).symm
  | succ k ih =>
    have row : (BitVec.ofNat 8 (k + 1)).toNat = k + 1 := by
      rw [BitVec.toNat_ofNat]
      omega
    have named := Register.ofCode_ne_none_of_range (reg := BitVec.ofNat 8 (k + 1)) (.inl (by omega))
    rw [cellAfterFrames_succ (rows k (by omega)), cellAfterLatch_of_stores _ named.1 named.2, ih (by omega)]
    by_cases same : code = BitVec.ofNat 8 (k + 1)
    · rw [if_pos same, if_pos (by rw [same, row]; omega), same, row, Nat.add_sub_cancel]
    · have other : code.toNat ≠ k + 1 := fun h => same (BitVec.eq_of_toNat_eq (h.trans row.symm))
      rw [if_neg same]
      exact if_congr (by omega) rfl rfl

/-- Settles O46: frame `f` puts a zero in row `f + 1` of every chip. -/
theorem clearDarkensEveryRow : Obligations.ClearDarkensEveryRow := by
  intro s rest ready right
  obtain ⟨t, ran, cells⟩ := cells_after_command ready right
  refine ⟨t, ran, fun p code => ?_⟩
  rw [cells, cellAfterFrames_rows (pair := pairAt s .clear p) (data := fun _ => 0) (fun _ _ => rfl) code _ (Nat.le_refl 8)]
  by_cases inside : p < s.n.toNat <;> simp [inside]

/-- Settles O42: one frame, which carries the line's row and the payload. -/
theorem writeLineReachesTheChips : Obligations.WriteLineReachesTheChips := by
  intro s line payload rest ready right
  obtain ⟨t, ran, cells⟩ := cells_after_command ready right
  obtain ⟨-, checked, -⟩ := ready.inv.in_flight_fits _ ready.command
  obtain ⟨line_ok, payload_ok⟩ := checked line payload rfl
  have row : (line + 1).toNat = line.toNat + 1 := by bv_omega
  have named := Register.ofCode_ne_none_of_range (reg := line + 1) (.inl (by omega))
  refine ⟨t, ran, fun p code => ?_⟩
  rw [cells]
  by_cases inside : p < s.n.toNat
  · obtain ⟨d, byte⟩ : ∃ d, payload[s.n.toNat - 1 - p]? = some d := ⟨_, List.getElem?_eq_getElem (by omega)⟩
    have pair : pairAt s (.writeLine line payload) p 0 = some (line + 1, d) := writeLinePair_of_getElem? byte
    rw [if_pos inside, cellAfterFrames_succ pair, cellAfterLatch_of_stores _ named.1 named.2, byte]
    simp [inside, cellAfterFrames]
  · simp [inside]

/-- Settles O43: one frame, in which every other chip latches a no-op pair. -/
theorem writeDeviceChangesOneCell : Obligations.WriteDeviceChangesOneCell := by
  intro s dev reg data rest ready right promised named
  obtain ⟨t, ran, cells⟩ := cells_after_command ready right
  obtain ⟨-, -, checked⟩ := ready.inv.in_flight_fits _ ready.command
  have dev_ok := checked dev reg data rfl
  obtain ⟨named', nonzero⟩ := Register.ofCode_ne_none_of_range named
  refine ⟨t, ran, fun p code => ?_⟩
  rw [cells]
  by_cases inside : p < s.n.toNat
  · have pair : pairAt s (.writeDevice dev reg data) p 0 = some (if p = dev.toNat then (reg, data) else (0, 0)) :=
      congrArg some (if_congr (by omega) rfl rfl)
    rw [if_pos inside, cellAfterFrames_succ pair]
    by_cases own : p = dev.toNat
    · rw [if_pos own, cellAfterLatch_of_stores _ named' nonzero]
      simp [own, cellAfterFrames]
    · have harmless : NoopHarmless s.params.noop 0 := by
        cases promise : s.params.noop with
        | nothing => exact absurd promise promised
        | zeroData => exact .inr ⟨rfl, rfl⟩
        | anyData => exact .inl rfl
      rw [if_neg own, if_neg fun h => own h.1]
      exact cellAfterLatch_of_harmless harmless code _
  · have other : p ≠ dev.toNat := by omega
    simp [inside, other]

/-- Bit `j` of the byte of slot `d` is the text's pixel at column `8·(N-1-d) + j - x_pos` (rule R139). -/
theorem getLsbD_compose (g : Byte → Nat → Byte) (n : Nat) (text : List Byte) (x : Int) (d r : Nat) {j : Nat} (hj : j < 8) :
    (compose g n text x d r).getLsbD j = textPixel g text (8 * ((n : Int) - 1 - d) + j - x) r := by
  have column : 8 * charIndex n d x + j - charShift x = 8 * ((n : Int) - 1 - d) + j - x := by
    have split := charBase_charShift x
    simp only [charIndex]
    omega
  rw [compose, getLsbD_blend g text r _ (neg_lt_charShift x) (charShift_lt x) hj, column]

/-- Settles O44: frame `r` puts the composed bytes in row `r + 1`, and the closed form names their pixels. -/
theorem renderTextShowsTheText : Obligations.RenderTextShowsTheText := by
  intro s text x rest ready right
  obtain ⟨t, ran, cells⟩ := cells_after_command ready right
  refine ⟨t, ran, fun u r column row => ?_⟩
  have inside : u / 8 < s.n.toNat := by omega
  have code : (BitVec.ofNat 8 (r + 1)).toNat = r + 1 := by
    rw [BitVec.toNat_ofNat]
    omega
  rw [displayPixel, cells, if_pos inside,
    cellAfterFrames_rows (pair := pairAt s (.renderText text x) (u / 8))
      (data := compose (glyphRow s.params) s.n.toNat text x (s.n.toNat - 1 - u / 8)) (fun _ _ => rfl) _ _ (Nat.le_refl 8),
    code, if_pos (by omega), Option.map_some, Nat.add_sub_cancel, getLsbD_compose _ _ _ _ _ _ (Nat.mod_lt u (by decide))]
  congr 2
  omega

end Sys2Proof.Machine
end

section
/-! A running command comes to its end where the environment answers: every free turn takes one from a count of the turns
left (rules R100 to R105). Then the obligation. -/

namespace Sys2Proof.Machine

/-- The turns of a command of `count` frames on `n` chips that are left at a position of the sequencer: two for every
request, `2·n + 2` requests a frame. -/
def turnsLeft (n count : Nat) : Seq → Nat
  | .idle => 0
  | .assert f => (count - (f + 1)) * (4 * n + 4) + (4 * n + 4)
  | .waitAssert f => (count - (f + 1)) * (4 * n + 4) + (4 * n + 3)
  | .byte f t h => (count - (f + 1)) * (4 * n + 4) + (2 * (2 * n - byteIndex t h) + 2)
  | .waitByte f t h => (count - (f + 1)) * (4 * n + 4) + (2 * (2 * n - byteIndex t h) + 1)
  | .release f => (count - (f + 1)) * (4 * n + 4) + 2
  | .waitRelease f => (count - (f + 1)) * (4 * n + 4) + 1

/-- Each answer to an abandoned request is a turn too. -/
def workLeft (s : State) : Nat :=
  s.abandoned.length + turnsLeft s.n.toNat ((framesInFlight s).getD 0) s.seq

theorem workLeft_pos {s : State} (runs : s.seq ≠ .idle) : 0 < workLeft s := by
  refine Nat.lt_of_lt_of_le ?_ (Nat.le_add_left ..)
  cases at_ : s.seq with
  | idle => exact absurd at_ runs
  | _ => simp only [turnsLeft]; omega

/-- The command ended, or it goes on with less to do. -/
abbrev NearerEnd (s t : State) : Prop := t.mode = .idle ∨ (t.mode = .busy ∧ workLeft t < workLeft s)

theorem byteIndex_lt {n t : Nat} (h : Half) (slot : t < n) : byteIndex t h < 2 * n := by
  cases h <;> simp only [byteIndex] <;> omega

/-- The next position of `SEQ` inside a frame has fewer turns left. -/
theorem turnsLeft_afterByte_lt {n count f t : Nat} (h : Half) (slot : t < n) :
    turnsLeft n count (afterByte n f t h) < turnsLeft n count (.waitByte f t h) := by
  have inside := byteIndex_lt h slot
  rcases afterByte_cases n f t h with ⟨rfl, next⟩ | ⟨rfl, more, next⟩ | ⟨rfl, last, next⟩ <;> rw [next] <;>
    simp only [turnsLeft, byteIndex] at inside ⊢ <;> omega

theorem turnsLeft_nextFrame_lt {n count f : Nat} (more : f + 1 < count) :
    turnsLeft n count (.assert (f + 1)) < turnsLeft n count (.waitRelease f) := by
  have frame : count - (f + 1) = count - (f + 1 + 1) + 1 := by omega
  simp only [turnsLeft]
  rw [frame, Nat.succ_mul (count - (f + 1 + 1)) (4 * n + 4)]
  omega

/-- At most eight frames are left (rules R105, R209). -/
theorem turnsLeft_le {s : State} (position : positionInRange s) {count : Nat} (frames : framesInFlight s = some count)
    (eight : count ≤ 8) : turnsLeft s.n.toNat count s.seq ≤ 2 * requestCount 8 s.n.toNat := by
  have within (f : Nat) (inside : f < count) (k : Nat) (few : k ≤ 4 * s.n.toNat + 4) :
      (count - (f + 1)) * (4 * s.n.toNat + 4) + k ≤ 2 * requestCount 8 s.n.toNat :=
    calc (count - (f + 1)) * (4 * s.n.toNat + 4) + k
        ≤ (count - (f + 1)) * (4 * s.n.toNat + 4) + (4 * s.n.toNat + 4) := Nat.add_le_add_left few _
      _ = (count - (f + 1) + 1) * (4 * s.n.toNat + 4) := (Nat.succ_mul ..).symm
      _ ≤ 8 * (4 * s.n.toNat + 4) := Nat.mul_le_mul_right _ (by omega)
      _ = 2 * requestCount 8 s.n.toNat := by simp only [requestCount]; omega
  simp only [positionInRange, frames, Option.getD_some] at position
  cases at_ : s.seq <;> rw [at_] at position
  case idle => exact Nat.zero_le _
  case assert f => exact within f position _ (by omega)
  case waitAssert f => exact within f position _ (by omega)
  case byte f t h => exact within f position.1 _ (by omega)
  case waitByte f t h => exact within f position.1 _ (by omega)
  case release f => exact within f position _ (by omega)
  case waitRelease f => exact within f position _ (by omega)

theorem frameCount_le {i : Instr} {count : Nat} (h : frameCount i = some count) : count ≤ 8 := by
  cases i <;> cases h <;> decide

/-- The command goes on where the sequencer moved to a position with fewer turns left. -/
theorem nearerEnd_of_seq {s t : State} (running : RunningInv s) (mode : t.mode = s.mode) (n : t.n = s.n)
    (inFlight : t.inFlight = s.inFlight) (abandoned : t.abandoned = s.abandoned)
    (less : ∀ count, turnsLeft s.n.toNat count t.seq < turnsLeft s.n.toNat count s.seq) : NearerEnd s t := by
  refine .inr ⟨mode.trans running.busy, ?_⟩
  have frames : framesInFlight t = framesInFlight s := by rw [framesInFlight, inFlight, framesInFlight]
  rw [workLeft, workLeft, abandoned, frames, n]
  exact Nat.add_lt_add_left (less _) _

theorem SequencerMoved.nearerEnd {s t : State} (control : ControlInv s) (enabled : sequencerEnabled s = true)
    (did : SequencerMoved s t) : NearerEnd s t := by
  have position := control.position
  have running {q : Seq} (at_ : s.seq = q) (runs : q ≠ .idle) : RunningInv s := control.running (at_ ▸ runs)
  cases did with
  | rests idle =>
    rw [idle] at enabled
    cases enabled
  | cancelled f at_ pending => exact .inl (by simp [(running at_ (by simp)).busy, modeAfterEnd])
  | asserts f at_ go =>
    exact nearerEnd_of_seq (running at_ (by simp)) rfl rfl rfl rfl fun count => by simp [at_, turnsLeft]
  | cutShort f k half at_ pending =>
    rw [positionInRange, at_] at position
    have inside := byteIndex_lt half position.2
    refine nearerEnd_of_seq (running at_ (by simp)) rfl rfl rfl rfl fun count => ?_
    simp only [at_, failFrame_seq, turnsLeft]
    omega
  | sends f k half b at_ go is =>
    exact nearerEnd_of_seq (running at_ (by simp)) rfl rfl rfl rfl fun count => by simp [at_, turnsLeft]
  | releases f at_ =>
    exact nearerEnd_of_seq (running at_ (by simp)) rfl rfl rfl rfl fun count => by simp [at_, turnsLeft]

theorem BlockTook.nearerEnd {a : Answer} {s t : State} (running : RunningInv s) (waits : ¬ NotWaiting s)
    (did : BlockTook a s t) : NearerEnd s t := by
  have position := running.position
  cases did with
  | nothing notWaiting => exact absurd notWaiting waits
  | asserted f at_ is =>
    refine nearerEnd_of_seq running rfl rfl rfl rfl fun count => ?_
    simp only [at_, turnsLeft, byteIndex]
    omega
  | assertFailed f e at_ is =>
    refine nearerEnd_of_seq running rfl rfl rfl rfl fun count => ?_
    simp only [at_, failFrame_seq, turnsLeft]
    omega
  | sent f k half at_ is =>
    rw [positionInRange, at_] at position
    refine nearerEnd_of_seq running rfl rfl rfl rfl fun count => ?_
    rw [at_]
    exact turnsLeft_afterByte_lt half position.2
  | sendFailed f k half e at_ is =>
    rw [positionInRange, at_] at position
    have inside := byteIndex_lt half position.2
    refine nearerEnd_of_seq running rfl rfl rfl rfl fun count => ?_
    simp only [at_, failFrame_seq, turnsLeft]
    omega
  | ended f c at_ first => exact .inl (by simp [running.busy, modeAfterEnd])
  | nextFrame f count at_ first frames more =>
    refine .inr ⟨running.busy, Nat.add_lt_add_left ?_ _⟩
    change turnsLeft s.n.toNat ((framesInFlight s).getD 0) (.assert (f + 1)) <
      turnsLeft s.n.toNat ((framesInFlight s).getD 0) s.seq
    rw [at_, frames]
    exact turnsLeft_nextFrame_lt more
  | endedOk f count at_ first frames last => exact .inl (by simp [running.busy, modeAfterEnd])

theorem Answered.nearerEnd {c : Collaborator} {a : Answer} {s t : State} (control : ControlInv s) (busy : s.mode = .busy)
    (owes : owing s = some c) (did : Answered c a s t) : NearerEnd s t := by
  cases did with
  | discarded before r after _ owed its oldest outside =>
    rw [lateAnswer_onlyOutside outside]
    refine .inr ⟨busy, Nat.add_lt_add_right ?_ _⟩
    simp only [owed, List.length_append, List.length_cons]
    omega
  | taken r u _ none_abandoned own its outside block =>
    have running := control.running_of_outstanding own
    have seq : u.seq = s.seq := (environmentAnswer_seq outside).trans rfl
    have nearer := block.nearerEnd (running.outside outside) (mt (notWaiting_congr seq).1 (control.waits own))
    rw [environmentAnswer_onlyOutside outside] at nearer
    exact nearer
  | nothingOwed none_abandoned none_own =>
    rw [owing] at owes
    split at owes
    · rename_i r others owed
      exact absurd (Option.some.inj owes) (none_abandoned r (by rw [owed]; exact List.mem_cons_self))
    · obtain ⟨r, own, its⟩ := Option.map_eq_some_iff.1 owes
      exact absurd its (none_own r own)

/-! ### The free turns -/

theorem SequencerMoved.schedule {s t : State} (did : SequencerMoved s t) : t.schedule = s.schedule := by
  cases did <;> rfl

theorem BlockTook.schedule {a : Answer} {s t : State} (did : BlockTook a s t) : t.schedule = s.schedule := by
  cases did <;> rfl

theorem Answered.schedule {c : Collaborator} {a : Answer} {s t : State} (did : Answered c a s t) :
    t.schedule = s.schedule := by
  cases did with
  | discarded before r after _ owed its oldest outside => rw [lateAnswer_onlyOutside outside]
  | taken r u _ none_abandoned own its outside block =>
    rw [block.schedule, environmentAnswer_onlyOutside outside, takeAnswer_schedule]
  | nothingOwed none_abandoned none_own => rfl

/-- Where a running command does not move, an answer is owed. -/
theorem ControlInv.owing_of_not_enabled {s : State} (control : ControlInv s) (busy : s.mode = .busy)
    (waits : sequencerEnabled s = false) : owing s ≠ none := by
  have requested : s.outstanding ≠ none := by
    have matching := control.outstanding_matches
    cases at_ : s.seq with
    | idle => exact absurd at_ (control.busy_iff.1 busy)
    | waitAssert f =>
      rw [outstandingMatches, at_] at matching
      exact Option.ne_none_iff_exists'.2 ⟨_, matching⟩
    | waitByte f t h =>
      rw [outstandingMatches, at_] at matching
      obtain ⟨b, -, is⟩ := matching
      exact Option.ne_none_iff_exists'.2 ⟨_, is⟩
    | waitRelease f =>
      rw [outstandingMatches, at_] at matching
      exact Option.ne_none_iff_exists'.2 ⟨_, matching⟩
    | _ =>
      rw [sequencerEnabled, at_] at waits
      cases waits
  rw [owing]
  split
  · simp
  · simpa using requested

theorem step_nearerEnd {s : State} (inv : s.Inv) (busy : s.mode = .busy) (silent : s.schedule = []) :
    ∃ t, step s = .next t ∧ t.schedule = [] ∧ NearerEnd s t := by
  have control := ((inv_iff s).1 inv).2.1
  rcases step_next_or_stops s with ⟨t, goes⟩ | ⟨a, v, rest, turn, -⟩ | ⟨stuck, -⟩
  · refine ⟨t, goes, ?_⟩
    cases step_cases goes with
    | host act rest _ turn did => rw [silent] at turn; cases turn
    | sequencer rest _ turn did => rw [silent] at turn; cases turn
    | answer c a rest _ turn did => rw [silent] at turn; cases turn
    | freeSequencer _ turn enabled did => exact ⟨did.schedule.trans silent, did.nearerEnd control enabled⟩
    | freeAnswer c _ turn waiting owes did =>
      have control' : ControlInv { s with draws := s.draws + 1 } := control.keep ⟨rfl, rfl, rfl, rfl, rfl, rfl, rfl, rfl⟩
      have nearer := did.nearerEnd control' busy owes
      exact ⟨did.schedule.trans silent, nearer⟩
    | silent turn waiting notOwed => exact absurd notOwed (control.owing_of_not_enabled busy waiting)
  · rw [silent] at turn
    cases turn
  · exact absurd stuck control.not_stuck

theorem run_ends {m : Nat} {s : State} (inv : s.Inv) (busy : s.mode = .busy) (silent : s.schedule = [])
    (bound : workLeft s ≤ m) : ∃ k t, k ≤ m ∧ run k s = .next t ∧ t.mode = .idle := by
  induction m generalizing s with
  | zero =>
    have := workLeft_pos (inv.busy_iff.1 busy)
    omega
  | succ m ih =>
    obtain ⟨t, goes, silent', idle | ⟨busy', less⟩⟩ := step_nearerEnd inv busy silent
    · exact ⟨1, t, by omega, by rw [run_succ 0 goes, run_zero], idle⟩
    · obtain ⟨k, u, few, ran, idle⟩ := ih (stepKeepsInvariant s t inv goes) busy' silent' (by omega)
      exact ⟨k + 1, u, by omega, by rw [run_succ k goes, ran], idle⟩

/-- Settles O47: the work left bounds the steps, and at most eight frames are left. -/
theorem runningCommandEnds : Obligations.RunningCommandEnds := by
  intro s inv busy silent
  have control := ((inv_iff s).1 inv).2.1
  obtain ⟨i, command, fits⟩ := (control.running (control.busy_iff.1 busy)).command
  obtain ⟨count, frames⟩ := Option.ne_none_iff_exists'.1 fits.1
  have frames' : framesInFlight s = some count := by simp [framesInFlight, command, frames]
  have left : workLeft s ≤ s.abandoned.length + 2 * requestCount 8 s.n.toNat := by
    rw [workLeft, frames']
    exact Nat.add_le_add_left (turnsLeft_le inv.position frames' (frameCount_le frames)) _
  exact run_ends inv busy silent left

end Sys2Proof.Machine
end

section
/-! Decoding after encoding, and what a descriptor's unread fields cannot change (rules R70 to R75, R80, R81). Then the
obligations on the encodings. -/

namespace Sys2Proof

/-! ### The equations of the decoder -/

theorem Register.ofCode_code (r : Register) : Register.ofCode r.code = some r := by
  cases r <;> rfl

theorem decodePair_packPair_code (r : Register) (data : Byte) :
    decodePair (packPair r.code data) = .ok (pairInstr r data) := by
  simp only [decodePair, pairReg_packPair, pairData_packPair, Register.ofCode_code]

/-- The sequence operand of a descriptor is the bytes it supplies (rules R42, R70). -/
theorem bytesOf_supplied (w0 w1 w2 : Word32) {bytes : List Byte} {len : Nat} (is : len = bytes.length) :
    bytesOf (Descriptor.byte ⟨w0, w1, w2, bytes⟩) len = bytes := by
  rw [is]
  exact bytesOf_byte ⟨w0, w1, w2, bytes⟩

/-- A wire pair decodes from its own encoding. -/
theorem decode_encode_pairInstr (bufMax : Nat) (r : Register) (data : Byte) :
    decode bufMax (encode (pairInstr r data)) = .ok (pairInstr r data) := by
  rw [encode_pairInstr, decode, decodePair_packPair_code]

theorem decode_encode_writeLine {bufMax : Nat} {line : Byte} {payload : List Byte}
    (fits : Instr.sequenceFits bufMax payload) :
    decode bufMax (encode (.writeLine line payload)) = .ok (.writeLine line payload) := by
  have length := fieldLen_packW1 fits.2
  have inside : ¬ bufMax < fieldLen (packW1 payload.length) := by
    rw [length]
    exact Nat.not_lt.2 fits.1
  simp [encode, decode, decodeDescriptor, inside, bytesOf_supplied _ _ _ length]

theorem decode_encode_renderText {bufMax : Nat} {text : List Byte} {x : Int} (fits : Instr.sequenceFits bufMax text)
    (signed : Instr.xPosFits x) : decode bufMax (encode (.renderText text x)) = .ok (.renderText text x) := by
  have length := fieldLen_packW1 fits.2
  have inside : ¬ bufMax < fieldLen (packW1 text.length) := by
    rw [length]
    exact Nat.not_lt.2 fits.1
  simp [encode, decode, decodeDescriptor, inside, bytesOf_supplied _ _ _ length, fieldXPos_ofInt signed]

theorem decode_encode_rotate {bufMax : Nat} (m : Matrix8) (fits : 8 ≤ bufMax) :
    decode bufMax (encode (.rotate m)) = .ok (.rotate m) := by
  have length : fieldLen (packW1 8) = 8 := fieldLen_packW1 (by decide)
  have inside : ¬ bufMax < 8 := Nat.not_lt.2 fits
  simp [encode, decode, decodeDescriptor, length, inside, matrixOf_byte]

/-- Settles O2: the commands without a sequence operand from their packed fields, the three with one from `LEN` and the
bytes supplied, the pairs from their register code. -/
theorem decodeInvertsEncode : Obligations.DecodeInvertsEncode := by
  intro bufMax i fits
  cases i with
  | configure n => simp [encode, decode, decodeDescriptor]
  | bcastCmd r data => simp [encode, decode, decodeDescriptor, Register.ofCode_code]
  | clear => simp [encode, decode, decodeDescriptor]
  | bcastRaw reg data => simp [encode, decode, decodeDescriptor]
  | writeLine line payload => exact decode_encode_writeLine fits
  | writeDevice dev reg data => simp [encode, decode, decodeDescriptor]
  | renderText text x => exact decode_encode_renderText fits.1 fits.2
  | rotate m => exact decode_encode_rotate m fits
  | pairNoop d => exact decode_encode_pairInstr bufMax .noop d
  | pairRow0 d => exact decode_encode_pairInstr bufMax .row0 d
  | pairRow1 d => exact decode_encode_pairInstr bufMax .row1 d
  | pairRow2 d => exact decode_encode_pairInstr bufMax .row2 d
  | pairRow3 d => exact decode_encode_pairInstr bufMax .row3 d
  | pairRow4 d => exact decode_encode_pairInstr bufMax .row4 d
  | pairRow5 d => exact decode_encode_pairInstr bufMax .row5 d
  | pairRow6 d => exact decode_encode_pairInstr bufMax .row6 d
  | pairRow7 d => exact decode_encode_pairInstr bufMax .row7 d
  | pairDecodeMode d => exact decode_encode_pairInstr bufMax .decodeMode d
  | pairIntensity d => exact decode_encode_pairInstr bufMax .intensity d
  | pairScanLimit d => exact decode_encode_pairInstr bufMax .scanLimit d
  | pairOnOff d => exact decode_encode_pairInstr bufMax .onOff d
  | pairDisplayTest d => exact decode_encode_pairInstr bufMax .displayTest d

/-- Settles O3: a pair decodes by the register its first byte names, which has that byte as its code. -/
theorem encodeInvertsPairDecode : Obligations.EncodeInvertsPairDecode := by
  intro w i decoded
  unfold decodePair at decoded
  cases named : Register.ofCode (pairReg w) with
  | none =>
    rw [named] at decoded
    cases decoded
  | some r =>
    rw [named] at decoded
    cases decoded
    rw [encode_pairInstr, Register.code_of_ofCode named, packPair_pairReg_pairData]

theorem matrixOf_congr {row row' : Nat → Byte} (same : ∀ a, a < 8 → row a = row' a) : matrixOf row = matrixOf row' := by
  simp only [matrixOf]
  rw [same 0 (by decide), same 1 (by decide), same 2 (by decide), same 3 (by decide), same 4 (by decide),
    same 5 (by decide), same 6 (by decide), same 7 (by decide)]

/-- Settles O4: opcode by opcode, the fields the decoder reads are the ones said to be the same. -/
theorem unreadFieldsAreIgnored : Obligations.UnreadFieldsAreIgnored := by
  intro bufMax buf buf' w0 w0' w1 w1' w2 w2' opcode ab c len xPos
  unfold decodeDescriptor
  rw [← opcode]
  rcases opcode_cases (fieldOpc w0) with opc | opc | opc | opc | opc | opc | opc | opc | beyond
  · simp [opc, c (by simp [opc])]
  · obtain ⟨a, b⟩ := ab (by simp [opc])
    simp [opc, a, b]
  · simp [opc]
  · obtain ⟨a, b⟩ := ab (by simp [opc])
    simp [opc, a, b]
  · obtain ⟨length, bytes⟩ := len (by simp [opc])
    simp [opc, c (by simp [opc]), bytesOf_congr bytes, ← length]
  · obtain ⟨a, b⟩ := ab (by simp [opc])
    simp [opc, a, b, c (by simp [opc])]
  · obtain ⟨length, bytes⟩ := len (by simp [opc])
    simp [opc, xPos opc, bytesOf_congr bytes, ← length]
  · obtain ⟨length, bytes⟩ := len (by simp [opc])
    by_cases rows : fieldLen w1 = 8
    · rw [rows] at bytes
      simp [opc, ← length, rows, matrixOf_congr bytes]
    · simp [opc, ← length, rows]
  · have none_of : ∀ k : Byte, k.toNat < 8 → fieldOpc w0 ≠ k := fun k small same => by
      rw [same] at beyond
      omega
    simp [none_of]

/-- Settles O5: both directions over the fourteen names and all bytes. -/
theorem registerCodesAreOneToOne : Obligations.RegisterCodesAreOneToOne := by
  refine ⟨Register.ofCode_code, fun b => ?_⟩
  have named : (∃ r, Register.ofCode b = some r ∧ r.code = b) ↔ Register.ofCode b ≠ none := by
    rw [Option.ne_none_iff_exists']
    exact exists_congr fun r => and_iff_left_of_imp Register.code_of_ofCode
  rw [named, Ne, Register.ofCode_eq_none_iff]
  bv_omega

/-- Settles O1: closed words, evaluated. -/
theorem specWordsDecode : Obligations.SpecWordsDecode := by
  unfold Obligations.SpecWordsDecode
  decide

end Sys2Proof
end

section
/-! What each turn of the host does at the command port (rules R15, R22, R26 to R30), and the acceptance of each command
(rules R106, R110 to R115, R136, R151). Then the obligations on the port and the commands. -/

namespace Sys2Proof

/-- The byte at `a` after a write is the one written, every other is as before (rule R22). -/
theorem Memory.read_write (m : Memory) (a : Nat) (v : Byte) (x : Nat) :
    (m.write a v).read x = if x = a then some v else m.read x := by
  split
  · subst_vars
    exact Memory.read_write_same m _ v
  · exact Memory.read_write_other m v ‹_›

end Sys2Proof

namespace Sys2Proof.Machine

/-! ### The port -/

theorem startCommand_of_legal {s : State} {i : Instr} (free : s.mode ≠ .busy) (spelt : fetchCommand s = .ok i) :
    startCommand s = exec i (beginAcceptance s) := by
  rw [startCommand, if_neg free, spelt]

/-- Settles O7: the decoded command is run where acceptance leaves the state. -/
theorem startRunsDecodedCommand : Obligations.StartRunsDecodedCommand := by
  intro s rest i turn free spelt
  exact (step_turn turn).trans (startCommand_of_legal (s := { s with schedule := rest }) free spelt)

/-- While BUSY the port accepts neither a write nor a `START` (rule R15). -/
theorem hostStep_locked {s : State} (busy : s.mode = .busy) {v : Word32} {a : Nat} {b : Byte} {act : HostAction}
    (listed : act ∈ [HostAction.writeW0 v, .writeW1 v, .writeW2 v, .writeBuf a b, .start]) :
    hostStep act s = .next s := by
  simp only [List.mem_cons, List.not_mem_nil, or_false] at listed
  rcases listed with rfl | rfl | rfl | rfl | rfl <;> exact if_pos busy

/-- Settles O9: locked while BUSY, else one register or byte each. -/
theorem portWritesAreLockedWhileBusy : Obligations.PortWritesAreLockedWhileBusy := by
  intro s rest v a b s'
  refine ⟨fun busy act listed turn => ?_, fun free turn => ?_, fun free turn => ?_, fun free turn => ?_,
    fun free turn inside => ?_, fun free turn beyond => ?_⟩
  · exact (step_turn turn).trans (hostStep_locked (s := s') busy listed)
  · exact (step_turn turn).trans (if_neg free)
  · exact (step_turn turn).trans (if_neg free)
  · exact (step_turn turn).trans (if_neg free)
  · exact ⟨{ s' with buf := s.buf.write a b }, (step_turn turn).trans ((if_neg free).trans (if_pos inside)), rfl,
      Memory.read_write s.buf a b⟩
  · exact (step_turn turn).trans ((if_neg free).trans (if_neg (Nat.not_lt.2 beyond)))

/-- Settles O10: the value read is the register's code, by what the register holds. -/
theorem portReadsHaveNoSideEffect : Obligations.PortReadsHaveNoSideEffect := by
  intro s rest r turn
  refine ⟨portRead s r, step_turn turn, ?_⟩
  cases r with
  | status => cases h : s.status <;> simp only [portRead, statusCode, h]
  | errInfo => rfl
  | selState => cases h : s.selState <;> simp only [portRead, selStateCode, h]
  | mode => cases h : s.mode <;> simp only [portRead, modeCode, h]
  | n => rfl
  | res a => exact ⟨matrixRow s.res a, rfl, fun _ => rfl⟩

/-- Settles O11: the two branches of `raiseCancel`. -/
theorem cancelPendsOnlyWhileBusy : Obligations.CancelPendsOnlyWhileBusy := by
  intro s rest turn
  exact ⟨fun busy => (step_turn turn).trans (congrArg Host.Outcome.next (if_pos busy)),
    fun free => (step_turn turn).trans (congrArg Host.Outcome.next (if_neg free))⟩

/-- Settles O13: the fields of `State.reset`, whose memories are empty. -/
theorem resetStateIsAsTabled : Obligations.ResetStateIsAsTabled :=
  ⟨rfl, rfl, rfl, rfl, rfl, rfl, rfl, Memory.read_nil, rfl, rfl, rfl, rfl,
    fun p code => Memory.read_nil (cellAddress p code)⟩

/-- Settles O14: after a failure no level is known, else the requested one by the platform's level of assertion. -/
theorem selectLineLevels : Obligations.SelectLineLevels := by
  intro s l a
  cases a with
  | err e => rfl
  | ok =>
    cases l with
    | assert => rfl
    | deassert =>
      cases level : s.params.selAssertLevel <;>
        simp only [lineLevel, driveLine, lineAfter, selLevel, level, oppositeLevel, Option.map_some]

/-! ### The end of a command -/

/-- Settles O22: the fields of `endCommand`, by the completion and the mode. -/
theorem endOfCommandStep : Obligations.EndOfCommandStep := by
  intro s c
  have mode : modeAfterEnd s.mode = if s.mode = .busy then .idle else s.mode := by cases s.mode <;> rfl
  rw [endCommand, mode]
  cases c <;> rfl

/-- A command that ends at its acceptance leaves `MODE`. -/
theorem endCommand_of_not_busy {s : State} (free : s.mode ≠ .busy) (c : Completion) :
    endCommand c s = { s with
      status := completionStatus c, errInfo := errInfoAfter s.errInfo c, cancelPend := false, seq := .idle
      inFlight := none, trace := s.trace ++ [.done c] } := by
  rw [endCommand, modeAfterEnd_of_ne_busy free]

/-! ### The acceptance of each command -/

theorem lengthAllowed_iff (p : Params) (n : Byte) : lengthAllowed p n = true ↔ 1 ≤ n.toNat ∧ n.toNat ≤ p.nMax := by
  simp [lengthAllowed]

/-- Settles O15: CONFIGURE where it is allowed, and where it is refused. -/
theorem configureSetsLengthOnce : Obligations.ConfigureSetsLengthOnce := by
  intro n s
  refine ⟨fun fresh low high => ?_, fun why => ?_⟩
  · exact execConfigure_allowed fresh ((lengthAllowed_iff _ n).2 ⟨low, high⟩)
  · have free : s.mode ≠ .busy := by
      rcases why with idle | ⟨fresh, -⟩
      · simp [idle]
      · simp [fresh]
    have refused : s.mode = .idle ∨ (s.mode = .unconfigured ∧ lengthAllowed s.params n = false) :=
      why.imp id fun ⟨fresh, out⟩ => ⟨fresh, Bool.eq_false_iff.2 fun allowed => by
        obtain ⟨low, high⟩ := (lengthAllowed_iff _ n).1 allowed
        omega⟩
    exact (execConfigure_refused refused).trans (congrArg Host.Outcome.next (endCommand_of_not_busy free _))

section
variable {s : State} {i : Instr} (sends : frameCount i ≠ none)
include sends

/-- An unconfigured block accepts no frame-sending command (rule R106). -/
theorem exec_unconfigured (fresh : s.mode = .unconfigured) :
    exec i s = .next { s with
      status := .configError, cancelPend := false, seq := .idle, inFlight := none
      trace := s.trace ++ [.done .configError] } := by
  rw [exec_of_frameCount sends, acceptFrames_unconfigured i _ fresh, endCommand_of_not_busy (by simp [fresh])]
  rfl

/-- A frame-sending command whose operands its check rejects ends at once (rules R106, R167). -/
theorem exec_rejected (idle : s.mode = .idle) {c : Completion} (rejects : operandError i s.n = some c) :
    exec i s = .next { s with
      status := completionStatus c, errInfo := errInfoAfter s.errInfo c, cancelPend := false, seq := .idle
      inFlight := none, trace := s.trace ++ [.done c] } := by
  rw [exec_of_frameCount sends, rejects, acceptFrames_error i c idle, endCommand_of_not_busy (by simp [idle])]

/-- A frame-sending command whose operands pass begins its frames. -/
theorem exec_begins (idle : s.mode = .idle) (passes : operandError i s.n = none) :
    exec i s = .next { s with mode := .busy, seq := .assert 0, inFlight := some i } := by
  rw [exec_of_frameCount sends, passes, acceptFrames_begins i idle, beginFrames]

end

/-- Settles O16: four commands that send frames and check no operand. -/
theorem uncheckedCommandsBegin : Obligations.UncheckedCommandsBegin := by
  intro s i reg code data text x listed
  have unchecked : frameCount i ≠ none ∧ operandError i s.n = none := by
    simp only [List.mem_cons, List.not_mem_nil, or_false] at listed
    rcases listed with rfl | rfl | rfl | rfl <;> simp [frameCount, operandError]
  exact ⟨fun idle => exec_begins unchecked.1 idle unchecked.2, exec_unconfigured unchecked.1⟩

/-- Settles O17: the line is checked first, then the length. -/
theorem writeLineChecksThenBegins : Obligations.WriteLineChecksThenBegins := by
  intro s line payload rejected
  have sends : frameCount (.writeLine line payload) ≠ none := by simp [frameCount]
  refine ⟨exec_unconfigured sends, fun idle high => ?_, fun idle low wrong => ?_, fun idle low right => ?_⟩
  · exact exec_rejected sends idle (c := .invalidLineIndex) (if_pos (by omega))
  · exact exec_rejected sends idle (c := .invalidPayloadLength) ((if_neg (by omega)).trans (if_pos wrong))
  · exact exec_begins sends idle ((if_neg (by omega)).trans (if_neg fun wrong => wrong right))

/-- Settles O18: the device index is checked, the register byte is not. -/
theorem writeDeviceChecksThenBegins : Obligations.WriteDeviceChecksThenBegins := by
  intro s dev reg data rejected
  have sends : frameCount (.writeDevice dev reg data) ≠ none := by simp [frameCount]
  refine ⟨exec_unconfigured sends, fun idle high => ?_, fun idle low => ?_⟩
  · exact exec_rejected sends idle (c := .invalidDeviceIndex) (if_pos high)
  · exact exec_begins sends idle (if_neg (Nat.not_le.2 low))

/-- Settles O19: `RES` takes the quarter turn, whose pixels are known, and the command ends with OK. -/
theorem rotateWritesResult : Obligations.RotateWritesResult := by
  intro s m free
  refine ⟨_, execRotate_of_not_busy m free, fun a b => ?_, endCommand_of_not_busy (s := { s with res := rot m }) free .ok⟩
  rw [seven_sub_eq_rev]
  exact matrixBit_rot m a b

/-- Settles O26: the pairs by their definitions; for WRITE_LINE the row's code, for WRITE_DEVICE the device's slot. -/
theorem commandPairs : Obligations.CommandPairs := by
  intro g n f t
  refine ⟨fun _ _ => rfl, fun _ => rfl, fun _ _ => rfl, fun line payload d byte => ?_, fun dev c d slot device => ?_,
    fun _ _ _ => rfl⟩
  · exact writeLinePair_of_getElem? byte
  · exact congrArg some (if_congr (by omega) rfl rfl)

/-! ### The compositor -/

/-- Settles O29: the row by its bounds check. -/
theorem rowsOutsideTextAreSentinel : Obligations.RowsOutsideTextAreSentinel := by
  intro g text r i
  refine ⟨fun k hk is => ?_, fun outside => ?_⟩
  · subst is
    rw [textRow_eq_ite, if_pos (by omega), Int.toNat_natCast, List.getD_eq_getElem _ _ hk]
  · rw [textRow_eq_ite, if_neg (by omega)]

/-- Settles O32: `char_base` is `x_pos / 8` toward zero, so three bits shorter. -/
theorem indexArithmeticFits : Obligations.IndexArithmeticFits := by
  intro x n d low high length slot
  have split := charBase_charShift x
  have below := neg_lt_charShift x
  have base_high : charBase x ≤ 2 ^ 28 - 1 := by
    rcases Int.le_total 0 x with right | left
    · have := charShift_nonneg right
      omega
    · have := charShift_lt x
      omega
  have base_low : -2 ^ 28 ≤ charBase x := by
    have := charShift_lt x
    omega
  simp only [charIndex]
  omega

/-! ### The release -/

theorem nextFrame_of_error {s : State} {c : Completion} (f : Nat) (first : s.err = some c) :
    nextFrame f s = .next (endCommand c s) := by
  rw [nextFrame, first]

section
variable {s : State} {f count : Nat} (no_error : s.err = none) (frames : framesInFlight s = some count)
include no_error frames

theorem nextFrame_of_more (more : f + 1 < count) : nextFrame f s = .next { s with seq := .assert (f + 1) } := by
  rw [nextFrame, no_error, frames]
  exact if_pos more

theorem nextFrame_of_last (last : ¬ f + 1 < count) : nextFrame f s = .next (endCommand .ok s) := by
  rw [nextFrame, no_error, frames]
  exact if_neg last

end

/-- The state in which the block looks at the latch after its deassert was answered: `SEL_STATE` and the first error are
recorded, the environment left some line and chips. -/
abbrev releasedState (s : State) (a : Answer) (rest : List Turn) (line : Option Sel) (chain : Chain) : State :=
  { takeAnswer a { s with schedule := rest } with
    line := line, chain := chain, selState := selStateAfter .deassert a, err := errAfterRelease s.err a }

theorem step_releaseAnswered {s : State} {a : Answer} {f : Nat} {rest : List Turn}
    (turn : s.schedule = .answer .seldrv a :: rest) (at_ : s.seq = .waitRelease f)
    (unowed : ∀ q ∈ s.abandoned, requestedOf q ≠ .seldrv) (own : s.outstanding = some (.sel .deassert)) :
    ∃ line chain, step s = nextFrame f (releasedState s a rest line chain) := by
  obtain ⟨u, outside, only, -⟩ := environmentAnswer_next (.sel .deassert) a (takeAnswer a { s with schedule := rest })
  have waiting : u.seq = .waitRelease f := (environmentAnswer_seq outside).trans at_
  refine ⟨u.line, u.chain, ?_⟩
  simp only [step_ownAnswer turn unowed own rfl outside, blockAnswer, waiting]
  rw [only]
  rfl

/-- A failed release is latched only as a first error (rule R104). -/
theorem errAfterRelease_eq_match (old : Option Completion) (a : Answer) :
    errAfterRelease old a = match old, a with
      | some c, _ => some c
      | none, .ok => none
      | none, .err e => some (.signalError e) := by
  cases old <;> cases a <;> rfl

theorem selStateAfter_deassert_eq_match (a : Answer) :
    selStateAfter .deassert a = match a with
      | .ok => .deasserted
      | .err _ => .unknown := by
  cases a <;> rfl

/-- Settles O25: the release is issued whatever is pending; after its answer the first error ends the command, else the
next frame follows or the command ends with OK. (The name `releaseStep` is the model's own step.) -/
theorem theReleaseStep : Obligations.ReleaseStep := by
  intro s f rest
  refine ⟨fun turn at_ => ?_, fun a i count turn at_ unowed own busy running frames => ?_⟩
  · rw [step_turn turn]
    simp only [takeTurn, sequencerStep, at_]
    rfl
  obtain ⟨line, chain, answered⟩ := step_releaseAnswered turn at_ unowed own
  have idle : modeAfterEnd s.mode = .idle := by rw [busy]; rfl
  have frames' : framesInFlight (releasedState s a rest line chain) = some count := by
    simp [framesInFlight, running, frames]
  have trace (c : Completion) : (s.trace ++ [.answered a]) ++ [.done c] = s.trace ++ [.answered a, .done c] :=
    List.append_assoc ..
  cases first : errAfterRelease s.err a with
  | some c =>
    refine ⟨_, some c, answered.trans (nextFrame_of_error f first), selStateAfter_deassert_eq_match a, rfl,
      first.symm.trans (errAfterRelease_eq_match s.err a), first, by cases c <;> rfl, ?_⟩
    exact ⟨trace c, rfl, idle, rfl, rfl, rfl⟩
  | none =>
    by_cases more : f + 1 < count
    · refine ⟨_, none, answered.trans (nextFrame_of_more first frames' more), selStateAfter_deassert_eq_match a, rfl,
        first.symm.trans (errAfterRelease_eq_match s.err a), first, rfl, ?_⟩
      change if _ then _ else _
      rw [if_pos more]
      exact ⟨rfl, rfl, busy, rfl, rfl, running⟩
    · refine ⟨_, none, answered.trans (nextFrame_of_last first frames' more), selStateAfter_deassert_eq_match a, rfl,
        first.symm.trans (errAfterRelease_eq_match s.err a), first, rfl, ?_⟩
      change if _ then _ else _
      rw [if_neg more]
      exact ⟨trace .ok, rfl, idle, rfl, rfl, rfl⟩

end Sys2Proof.Machine
end
